-- ==== Sys2Proof/Word.lean ====
section
/-! DEFINITION. The words of FFTCORE: 64-bit data words read as binary64 bit patterns, pairs of them,
and the 32-bit words of commands and of control and status registers (spec 00_scope.md R7 to R9). -/

namespace Sys2Proof

/-- A 64-bit word read as a binary64 datum (R9, R105): bit 63 sign, 62:52 exponent, 51:0 fraction. -/
abbrev F64 := BitVec 64

/-- A 32-bit word: a command word or the contents of a control and status register (R7, R30, R85). -/
abbrev Word32 := BitVec 32

/-- A complex value: a pair of binary64 words, real then imaginary (R2, R9). -/
structure Cplx where
  re : F64
  im : F64
  deriving DecidableEq, Repr

/-- The number of one of the eight complex registers `C[0]` to `C[7]` (R21). -/
abbrev Reg := Fin 8

end Sys2Proof
end

