-- ==== Sys2Proof/Syntax.lean ====
section
/-! DEFINITION. The commands of "FFTCORE command set 1.0", one constructor per row of the opcode map
(spec 30_encoding.md R95), and the closed set of micro-ops the sequencer performs (10_state.md R26). -/

namespace Sys2Proof

/-- A command with its operands (R95, R101).  Register numbers are exact by their type; `s`, `k` and
`idx` are unsigned integers "used as they stand" (R94), held to their field widths by `Instr.wellFormed`. -/
inductive Instr where
  /-- `NOP` (R207). -/
  | nop
  /-- `CADD cd, ca, cb` (R145). -/
  | cadd (rd ra rb : Reg)
  /-- `CSUB cd, ca, cb` (R146). -/
  | csub (rd ra rb : Reg)
  /-- `CMUL cd, ca, cb` (R147). -/
  | cmul (rd ra rb : Reg)
  /-- `CCONJ cd, ca` (R148). -/
  | cconj (rd ra : Reg)
  /-- `CPOLAR cd, ca` (R149). -/
  | cpolar (rd ra : Reg)
  /-- `TWID cd, s, k` (R154). -/
  | twid (rd : Reg) (s k : Nat)
  /-- `BFLY ce, co, cw` (R155): even term in `rd`, odd term in `ra`, twiddle in `rb`. -/
  | bfly (rd ra rb : Reg)
  /-- `CLD cd, idx` (R205). -/
  | cld (rd : Reg) (idx : Nat)
  /-- `CST cs, idx` (R206): the `rd` field names the source. -/
  | cst (rd : Reg) (idx : Nat)
  /-- `BITREV` (R168). -/
  | bitrev
  /-- `BSTAGE s` (R171). -/
  | bstage (s : Nat)
  /-- `FFT` (R172). -/
  | fft
  /-- `CONJV` (R186). -/
  | conjv
  /-- `IPOST` (R187). -/
  | ipost
  /-- `IFFT` (R190). -/
  | ifft
  /-- `NPOW2` (R195). -/
  | npow2
  /-- `ZPAD` (R197). -/
  | zpad
  /-- `LIFT` (R198). -/
  | lift
  deriving DecidableEq, Repr

/-- A micro-op: one atomic action of the sequencer (R16, R26).  Register operands are `Reg`, entry
indices, stage numbers, twiddle indices and exponents are natural numbers (R9). -/
inductive UOp where
  /-- `uNOP`. -/
  | nop
  /-- `uCADD d a b`. -/
  | cadd (d a b : Reg)
  /-- `uCSUB d a b`. -/
  | csub (d a b : Reg)
  /-- `uCMUL d a b`. -/
  | cmul (d a b : Reg)
  /-- `uCCONJ d a`. -/
  | cconj (d a : Reg)
  /-- `uCPOLAR d a`. -/
  | cpolar (d a : Reg)
  /-- `uTWID d s k`. -/
  | twid (d : Reg) (s k : Nat)
  /-- `uBFLYR e o w`: the butterfly on registers. -/
  | bflyr (e o w : Reg)
  /-- `uLD d i`. -/
  | ld (d : Reg) (i : Nat)
  /-- `uST r i`. -/
  | st (r : Reg) (i : Nat)
  /-- `uSWAP i j`. -/
  | swap (i j : Nat)
  /-- `uBFLYM a b s k`: the butterfly on two memory entries. -/
  | bflym (a b s k : Nat)
  /-- `uCONJM i`. -/
  | conjm (i : Nat)
  /-- `uPOSTM i p`. -/
  | postm (i p : Nat)
  /-- `uZERO i`. -/
  | zero (i : Nat)
  /-- `uLIFT i`. -/
  | lift (i : Nat)
  /-- `uSETN v`. -/
  | setn (v : Word32)
  deriving DecidableEq, Repr

end Sys2Proof
end

