-- ==== Sys2Proof/WellFormed.lean ====
section
/-! DEFINITION. What a command must satisfy to have an encoding: every unsigned operand fits its field
(spec 30_encoding.md R86).  Operand *values* outside a command's domain are not a matter of form: they
are checked at issue and raise `BadOperand` (R96, R219). -/

namespace Sys2Proof

/-- A stage number fits the 5-bit field `s`, bits 22:18 (R86). -/
abbrev stageFits (s : Nat) : Prop := s < 2 ^ 5

/-- A twiddle index fits the 16-bit field `k`, bits 15:0 (R86). -/
abbrev twiddleIndexFits (k : Nat) : Prop := k < 2 ^ 16

/-- An entry index fits the 16-bit field `idx`, bits 15:0 (R86). -/
abbrev entryIndexFits (idx : Nat) : Prop := idx < 2 ^ 16

/-- The operands of a command fit the fields of its format (R86, R87). -/
def Instr.wellFormed : Instr → Bool
  | .nop => true
  | .cadd _ _ _ => true
  | .csub _ _ _ => true
  | .cmul _ _ _ => true
  | .cconj _ _ => true
  | .cpolar _ _ => true
  | .twid _ s k => decide (stageFits s) && decide (twiddleIndexFits k)
  | .bfly _ _ _ => true
  | .cld _ idx => decide (entryIndexFits idx)
  | .cst _ idx => decide (entryIndexFits idx)
  | .bitrev => true
  | .bstage s => decide (stageFits s)
  | .fft => true
  | .conjv => true
  | .ipost => true
  | .ifft => true
  | .npow2 => true
  | .zpad => true
  | .lift => true

end Sys2Proof
end

