-- ==== Sys2Proof/Decode.lean ====
section
/-! DEFINITION. Command words to commands and back (spec 30_encoding.md R85 to R99).  The decoder is
total on all `2^32` words; the encoder is written from the same formats. -/

namespace Sys2Proof

/-- The six formats (R87). -/
inductive Format where
  | r3 | r2 | t | m | s | z
  deriving DecidableEq, Repr

/-- A 1 at every bit a format fixes: the opcode and the must-be-zero bits (R87). -/
def Format.mask : Format → Word32
  | .r3 => 0xFC01FFFF
  | .r2 => 0xFC0FFFFF
  | .t  => 0xFC030000
  | .m  => 0xFC7F0000
  | .s  => 0xFF83FFFF
  | .z  => 0xFFFFFFFF

/-- Why a word is `Illegal` (R96 to R98). -/
inductive Illegal where
  /-- The opcode field is none of the 19 of R95 (R97). -/
  | reservedOpcode
  /-- The opcode is defined but a must-be-zero bit is set (R98). -/
  | mustBeZero
  deriving DecidableEq, Repr

/-- The unsigned integer formed by `width` bits of `w` from bit `lo` up (R8). -/
def field (w : Word32) (lo width : Nat) : Nat := w.toNat / 2 ^ lo % 2 ^ width

/-- The field `opcode`, bits 31:26 (R86). -/
def fieldOpcode (w : Word32) : Nat := field w 26 6
/-- The field `rd`, bits 25:23 (R86). -/
def fieldRd (w : Word32) : Reg := Fin.ofNat 8 (field w 23 3)
/-- The field `ra`, bits 22:20 (R86). -/
def fieldRa (w : Word32) : Reg := Fin.ofNat 8 (field w 20 3)
/-- The field `rb`, bits 19:17 (R86). -/
def fieldRb (w : Word32) : Reg := Fin.ofNat 8 (field w 17 3)
/-- The field `s`, bits 22:18 (R86). -/
def fieldS (w : Word32) : Nat := field w 18 5
/-- The field `k` or `idx`, bits 15:0 (R86). -/
def fieldLow16 (w : Word32) : Nat := field w 0 16

/-- Step (2) of R96: the word is an occurrence of the format exactly when `(w and K) = op << 26`. -/
def checkFormat (f : Format) (op : Nat) (w : Word32) (i : Instr) : Except Illegal Instr :=
  if w &&& f.mask = BitVec.ofNat 32 (op * 2 ^ 26) then .ok i else .error .mustBeZero

/-- The decoding procedure (R96), over the opcode map of R95. -/
def decode (w : Word32) : Except Illegal Instr :=
  match fieldOpcode w with
  | 0x01 => checkFormat .z 0x01 w .nop
  | 0x08 => checkFormat .r3 0x08 w (.cadd (fieldRd w) (fieldRa w) (fieldRb w))
  | 0x09 => checkFormat .r3 0x09 w (.csub (fieldRd w) (fieldRa w) (fieldRb w))
  | 0x0A => checkFormat .r3 0x0A w (.cmul (fieldRd w) (fieldRa w) (fieldRb w))
  | 0x0B => checkFormat .r2 0x0B w (.cconj (fieldRd w) (fieldRa w))
  | 0x0C => checkFormat .r2 0x0C w (.cpolar (fieldRd w) (fieldRa w))
  | 0x10 => checkFormat .t 0x10 w (.twid (fieldRd w) (fieldS w) (fieldLow16 w))
  | 0x11 => checkFormat .r3 0x11 w (.bfly (fieldRd w) (fieldRa w) (fieldRb w))
  | 0x18 => checkFormat .m 0x18 w (.cld (fieldRd w) (fieldLow16 w))
  | 0x19 => checkFormat .m 0x19 w (.cst (fieldRd w) (fieldLow16 w))
  | 0x20 => checkFormat .z 0x20 w .bitrev
  | 0x21 => checkFormat .s 0x21 w (.bstage (fieldS w))
  | 0x22 => checkFormat .z 0x22 w .fft
  | 0x23 => checkFormat .z 0x23 w .conjv
  | 0x24 => checkFormat .z 0x24 w .ipost
  | 0x25 => checkFormat .z 0x25 w .ifft
  | 0x28 => checkFormat .z 0x28 w .npow2
  | 0x29 => checkFormat .z 0x29 w .zpad
  | 0x2A => checkFormat .z 0x2A w .lift
  | _    => .error .reservedOpcode

/-- The opcode of a command (R95). -/
def Instr.opcode : Instr → Nat
  | .nop => 0x01
  | .cadd _ _ _ => 0x08
  | .csub _ _ _ => 0x09
  | .cmul _ _ _ => 0x0A
  | .cconj _ _ => 0x0B
  | .cpolar _ _ => 0x0C
  | .twid _ _ _ => 0x10
  | .bfly _ _ _ => 0x11
  | .cld _ _ => 0x18
  | .cst _ _ => 0x19
  | .bitrev => 0x20
  | .bstage _ => 0x21
  | .fft => 0x22
  | .conjv => 0x23
  | .ipost => 0x24
  | .ifft => 0x25
  | .npow2 => 0x28
  | .zpad => 0x29
  | .lift => 0x2A

/-- The format of a command (R95). -/
def Instr.format : Instr → Format
  | .nop => .z
  | .cadd _ _ _ => .r3
  | .csub _ _ _ => .r3
  | .cmul _ _ _ => .r3
  | .cconj _ _ => .r2
  | .cpolar _ _ => .r2
  | .twid _ _ _ => .t
  | .bfly _ _ _ => .r3
  | .cld _ _ => .m
  | .cst _ _ => .m
  | .bitrev => .z
  | .bstage _ => .s
  | .fft => .z
  | .conjv => .z
  | .ipost => .z
  | .ifft => .z
  | .npow2 => .z
  | .zpad => .z
  | .lift => .z

/-- The word of a command with opcode `op` and operand bits `operands` (R86, R104). -/
def assemble (op operands : Nat) : Word32 := BitVec.ofNat 32 (op * 2 ^ 26 + operands)

/-- Operand bits of format R3 (R87). -/
def bitsR3 (rd ra rb : Reg) : Nat := rd.val * 2 ^ 23 + ra.val * 2 ^ 20 + rb.val * 2 ^ 17
/-- Operand bits of format R2 (R87). -/
def bitsR2 (rd ra : Reg) : Nat := rd.val * 2 ^ 23 + ra.val * 2 ^ 20
/-- Operand bits of format T (R87). -/
def bitsT (rd : Reg) (s k : Nat) : Nat := rd.val * 2 ^ 23 + s * 2 ^ 18 + k
/-- Operand bits of format M (R87). -/
def bitsM (rd : Reg) (idx : Nat) : Nat := rd.val * 2 ^ 23 + idx
/-- Operand bits of format S (R87). -/
def bitsS (s : Nat) : Nat := s * 2 ^ 18

/-- The word of a command (R87, R95, R104). -/
def encode (i : Instr) : Word32 :=
  match i with
  | .nop => assemble i.opcode 0
  | .cadd rd ra rb => assemble i.opcode (bitsR3 rd ra rb)
  | .csub rd ra rb => assemble i.opcode (bitsR3 rd ra rb)
  | .cmul rd ra rb => assemble i.opcode (bitsR3 rd ra rb)
  | .cconj rd ra => assemble i.opcode (bitsR2 rd ra)
  | .cpolar rd ra => assemble i.opcode (bitsR2 rd ra)
  | .twid rd s k => assemble i.opcode (bitsT rd s k)
  | .bfly rd ra rb => assemble i.opcode (bitsR3 rd ra rb)
  | .cld rd idx => assemble i.opcode (bitsM rd idx)
  | .cst rd idx => assemble i.opcode (bitsM rd idx)
  | .bitrev => assemble i.opcode 0
  | .bstage s => assemble i.opcode (bitsS s)
  | .fft => assemble i.opcode 0
  | .conjv => assemble i.opcode 0
  | .ipost => assemble i.opcode 0
  | .ifft => assemble i.opcode 0
  | .npow2 => assemble i.opcode 0
  | .zpad => assemble i.opcode 0
  | .lift => assemble i.opcode 0

/-- A command word given as the number of its bits; a command is one 32-bit word (R85). -/
def wordOfTable (nbits w : Nat) : Word32 := BitVec.ofNat 32 (w % 2 ^ nbits)

/-- The command the decoder reads from a word numbered as the opcode table numbers it. -/
def decodeTableWord (nbits w : Nat) : Option Instr :=
  match decode (wordOfTable nbits w) with
  | .ok i => some i
  | .error _ => none

end Sys2Proof
end

