-- ==== Sys2Proof/Machine/Float.lean ====
section
/-! DEFINITION. The binary64 primitives `fadd fsub fmul fneg i2f pow2`, their constants, and the meaning
of rounding (spec 40_numerics.md R105 to R127).  All finite arithmetic is exact integer arithmetic in
units of the smallest subnormal, `2^-1074`, narrowed once at the end (R110, R111). -/

namespace Sys2Proof.Machine

/-- `2^-1074` is the smallest positive value (R106); magnitudes are counted in it. -/
def unitExp : Nat := 1074

/-! ### Fields and classes (R105, R106) -/

/-- The sign bit, `x[63]` (R105). -/
def signBit (x : F64) : Bool := x.msb
/-- The biased exponent, `x[62:52]` (R105). -/
def expField (x : F64) : Nat := x.toNat / 2 ^ 52 % 2 ^ 11
/-- The fraction, `x[51:0]` (R105). -/
def fracField (x : F64) : Nat := x.toNat % 2 ^ 52

/-- Zero of either sign (R106). -/
def isZero (x : F64) : Bool := expField x == 0 && fracField x == 0
/-- Subnormal (R106). -/
def isSubnormal (x : F64) : Bool := expField x == 0 && fracField x != 0
/-- Normal (R106). -/
def isNormal (x : F64) : Bool := expField x != 0 && expField x != 2047
/-- Infinity of either sign (R106). -/
def isInf (x : F64) : Bool := expField x == 2047 && fracField x == 0
/-- NaN, quiet or signalling (R106). -/
def isNaN (x : F64) : Bool := expField x == 2047 && fracField x != 0
/-- Zero, subnormal or normal (R106). -/
def isFinite (x : F64) : Bool := expField x != 2047

/-- The magnitude in units of `2^-1074` (R106).  On an infinity the formula gives the notional
`2^1024` of R110(b). -/
def mag (x : F64) : Nat :=
  if expField x = 0 then fracField x else (2 ^ 52 + fracField x) * 2 ^ (expField x - 1)

/-- The signed magnitude in units of `2^-1074` (R106). -/
def smag (x : F64) : Int := if signBit x then -(mag x : Int) else (mag x : Int)

/-- The real value of a finite datum (R106): `val(x)`. -/
def val (x : F64) : ℚ := (smag x : ℚ) / 2 ^ unitExp

/-! ### Constants (R112, R124) -/

/-- `CNAN`, the one NaN that arithmetic produces (R112). -/
def CNAN : F64 := 0x7FF8000000000000
/-- `PI64`, the binary64 nearest to pi (R7, R124). -/
def PI64 : F64 := 0x400921FB54442D18
/-- `NEG_TWO_PI` (R124). -/
def NEG_TWO_PI : F64 := 0xC01921FB54442D18
/-- `ONE` (R124). -/
def ONE : F64 := 0x3FF0000000000000
/-- `PZERO` (R124). -/
def PZERO : F64 := 0x0000000000000000
/-- `NZERO` (R124). -/
def NZERO : F64 := 0x8000000000000000

/-- The zero of a given sign (R106). -/
def zeroOf (sign : Bool) : F64 := if sign then NZERO else PZERO
/-- The infinity of a given sign (R106). -/
def infOf (sign : Bool) : F64 := if sign then 0xFFF0000000000000 else 0x7FF0000000000000

/-! ### Rounding (R110, R111) -/

/-- `m / 2^sh` rounded to the nearest integer, ties to even (R111). -/
def roundHalfEven (m sh : Nat) : Nat :=
  if 2 ^ sh < 2 * (m % 2 ^ sh) ∨ (2 * (m % 2 ^ sh) = 2 ^ sh ∧ m / 2 ^ sh % 2 = 1) then
    m / 2 ^ sh + 1
  else m / 2 ^ sh

/-- How many low bits of a magnitude fall below the last place kept (R111): `q` counted from the unit
`2^-(1074+t)`, `max (floor (log2 m) - 52) t`. -/
def roundShift (m t : Nat) : Nat := max (Nat.log2 m - 52) t

/-- Bits 62:0 of the roundTiesToEven result for the magnitude `m * 2^-(1074+t)` (R111).  A carry out of
the 53-bit significand renormalises, a result of `2^1024` or more is the infinity, and a result
below the normal range is the subnormal, all by the one addition. -/
def roundMag (m t : Nat) : Nat :=
  if m = 0 then 0
  else min ((roundShift m t - t) * 2 ^ 52 + roundHalfEven m (roundShift m t)) (2047 * 2 ^ 52)

/-- A word from its sign and its bits 62:0 (R105). -/
def packSign (sign : Bool) (bits : Nat) : F64 := BitVec.ofNat 64 ((if sign then 2 ^ 63 else 0) + bits)

/-- `round64(r, sz)` for the exact number `r * 2^-(1074+t)` (R110). -/
def round64 (r : Int) (t : Nat) (sz : Bool) : F64 :=
  if r = 0 then zeroOf sz else packSign (decide (r < 0)) (roundMag r.natAbs t)

/-! ### Primitives -/

/-- `fneg(x)`: bit 63 inverted, every other bit kept (R120). -/
def fneg (x : F64) : F64 := x ^^^ 0x8000000000000000

/-- `fadd(a, b)`: the first row of R113 that applies. -/
def fadd (a b : F64) : F64 :=
  if isNaN a || isNaN b then CNAN
  else if isInf a && isInf b && signBit a != signBit b then CNAN
  else if isInf a then a
  else if isInf b then b
  else if isZero a && isZero b then (if signBit a = signBit b then a else PZERO)
  else if smag a + smag b = 0 then PZERO
  else round64 (smag a + smag b) 0 false

/-- `fsub(a, b) = fadd(a, fneg(b))` (R115). -/
def fsub (a b : F64) : F64 := fadd a (fneg b)

/-- The sign of a non-NaN product (R117). -/
def mulSign (a b : F64) : Bool := signBit a != signBit b

/-- `fmul(a, b)`: the first row of R117 that applies. -/
def fmul (a b : F64) : F64 :=
  if isNaN a || isNaN b then CNAN
  else if (isZero a && isInf b) || (isInf a && isZero b) then CNAN
  else if isInf a || isInf b then infOf (mulSign a b)
  else if isZero a || isZero b then zeroOf (mulSign a b)
  else round64 (smag a * smag b) unitExp (mulSign a b)

/-- `i2f(k)` for a natural number `k < 2^53` (R121). -/
def i2f (k : Nat) : F64 := round64 (k * 2 ^ unitExp : Nat) 0 false

/-- `pow2(e)` for an integer `-1022 <= e <= 1023` (R122): zero sign, exponent `1023 + e`, zero fraction. -/
def pow2 (e : Int) : F64 := BitVec.ofNat 64 ((1023 + e).toNat % 2 ^ 11 * 2 ^ 52)

/-! ### What rounding means (R110), on the reals -/

/-- The exact number a non-NaN word stands for when an infinity stands notionally for `2^1024` (R110). -/
def notional (x : F64) : ℝ := (val x : ℝ)

/-- `y` is `round64(r, sz)` as R110 defines it: a zero of sign `sz` for `r = 0`; otherwise the word of
the sign of `r` whose value is nearest to `r`, an even fraction field winning a tie, with the
infinities standing for `±2^1024`. -/
def RoundsTo (r : ℝ) (sz : Bool) (y : F64) : Prop :=
  (r = 0 ∧ y = zeroOf sz) ∨
  (r ≠ 0 ∧ isNaN y = false ∧ (signBit y = true ↔ r < 0) ∧
    ∀ z : F64, isNaN z = false →
      |r - notional y| ≤ |r - notional z| ∧
      (|r - notional y| = |r - notional z| → notional z ≠ notional y → fracField y % 2 = 0))

end Sys2Proof.Machine
end

