-- ==== Sys2Proof/Config.lean ====
section
/-! DEFINITION. The implementation parameters of FFTCORE (spec 00_scope.md R6) and the free values of
the model: the words a read of never-written state returns (10_state.md R57) and the rotator's cosine
and sine (40_numerics.md R129 to R131).  Nothing here has a value that a proof could lean on. -/

namespace Sys2Proof.Config

open Sys2Proof.Machine

/-- The parameter `UNWRITTEN` (R6, R57): what a read of a word that nothing has written since reset
does.  `anyValue`: it returns an arbitrary pattern, drawn afresh; `refuse`: the run is refused. -/
inductive Unwritten where
  | anyValue
  | refuse
  deriving DecidableEq, Repr

/-- The parameters that are plain data (R6).  `LMAX` is 1 to 16, held as one less so that no other
value can be written down. -/
structure Params where
  lmaxLessOne : Fin 16
  unwritten : Unwritten
  deriving DecidableEq, Repr

/-- `LMAX`, log2 of the largest transform length the data memory holds (R6). -/
def Params.lmax (p : Params) : Nat := p.lmaxLessOne.val + 1

/-- `NMAX = 2^LMAX`, the number of complex entries in DMEM (R6). -/
def Params.nmax (p : Params) : Nat := 2 ^ p.lmax

/-- The defaults of R6: `LMAX = 10`, `UNWRITTEN = any value`. -/
def Params.default : Params := { lmaxLessOne := 9, unwritten := .anyValue }

/-- The pattern the `k`-th draw of never-written state returns: a free value (R57, "an arbitrary 64-bit
pattern, drawn afresh at each read").  See notes/assumptions/3.md. -/
opaque freeWord : Nat → F64

/-- The default of the parameter `TRIG_EPS` (R6, R131 T5): `2^-52`.  A part may have another bound: no
property of the rotator assumes this one. -/
def defaultTrigEps : ℝ := Real.instRatCast.ratCast (1 / 2 ^ 52)

/-- A rotator as R131 lets it be, on the operands its properties T2 and T3 leave open.  T1 is that these
are functions; T2 and T3 are in `Machine.COS` and `Machine.SIN`; T4 and T5 are the fields below.
`eps` is the parameter `TRIG_EPS`, any real number above zero (R6). -/
structure Rotator where
  cos : F64 → F64
  sin : F64 → F64
  eps : ℝ
  eps_pos : 0 < eps
  cos_range : ∀ x, isFinite x = true → isFinite (cos x) = true ∧ |val (cos x)| ≤ 1
  sin_range : ∀ x, isFinite x = true → isFinite (sin x) = true ∧ |val (sin x)| ≤ 1
  cos_accuracy : ∀ x, isFinite x = true → |val x| ≤ val PI64 →
    |((val (cos x) : ℚ) : ℝ) - Real.cos ((val x : ℚ) : ℝ)| ≤ eps
  sin_accuracy : ∀ x, isFinite x = true → |val x| ≤ val PI64 →
    |((val (sin x) : ℚ) : ℝ) - Real.sin ((val x : ℚ) : ℝ)| ≤ eps

/-- The rotator of the part at hand: a conforming one, and nothing says which (R129: "the rest of the
spec assumes nothing of [it] except the named properties").  It is a free value with the manual's
limits kept; the argument is the evidence that conforming rotators exist.  See
notes/assumptions/4.md. -/
opaque rotatorOf : [Inhabited Rotator] → Rotator

end Sys2Proof.Config
end

