-- ==== Sys2Proof/Laws/Float.lean ====
section
/-! SUPPORT. Lemmas about the binary64 words and the rounding of `Machine/Float.lean`: how a packed word
reads back, that rounding is exact on representable magnitudes, and the algebra of the primitives. -/

namespace Sys2Proof.Machine

theorem packSign_toNat (s : Bool) (b : Nat) (h : b < 2 ^ 63) :
    (packSign s b).toNat = (if s then 2 ^ 63 else 0) + b := by
  unfold packSign
  rw [BitVec.toNat_ofNat]
  apply Nat.mod_eq_of_lt
  split <;> omega

theorem signBit_packSign (s : Bool) (b : Nat) (h : b < 2 ^ 63) : signBit (packSign s b) = s := by
  unfold signBit
  rw [BitVec.msb_eq_decide, packSign_toNat s b h]
  cases s
  · simp only [Bool.false_eq_true, ↓reduceIte, decide_eq_false_iff_not]; omega
  · simp only [↓reduceIte, decide_eq_true_eq]; omega

theorem expField_packSign (s : Bool) (b : Nat) (h : b < 2 ^ 63) :
    expField (packSign s b) = b / 2 ^ 52 := by
  unfold expField
  rw [packSign_toNat s b h]
  cases s
  all_goals
    simp
    omega

theorem fracField_packSign (s : Bool) (b : Nat) (h : b < 2 ^ 63) :
    fracField (packSign s b) = b % 2 ^ 52 := by
  unfold fracField
  rw [packSign_toNat s b h]
  cases s
  · simp
  · simp
    omega

/-- A significand `n` at exponent `e`, packed by one addition as `roundMag` does it, reads back as
`n * 2^e`; the carry `n = 2^53` included. -/
theorem mag_packSign (s : Bool) (e n : Nat) (hn : n ≤ 2 ^ 53) (he : e = 0 ∨ 2 ^ 52 ≤ n)
    (hb : e * 2 ^ 52 + n ≤ 2047 * 2 ^ 52) : mag (packSign s (e * 2 ^ 52 + n)) = n * 2 ^ e := by
  have hlt : e * 2 ^ 52 + n < 2 ^ 63 := by omega
  unfold mag
  rw [expField_packSign s _ hlt, fracField_packSign s _ hlt]
  by_cases hc : n = 2 ^ 53
  · subst hc
    have h1 : (e * 2 ^ 52 + 2 ^ 53) / 2 ^ 52 = e + 2 := by omega
    have h2 : (e * 2 ^ 52 + 2 ^ 53) % 2 ^ 52 = 0 := by omega
    rw [h1, h2, if_neg (by omega), show e + 2 - 1 = e + 1 by omega, pow_succ 2 e]
    ring
  · by_cases hs : n < 2 ^ 52
    · have e0 : e = 0 := by omega
      subst e0
      have h1 : (0 * 2 ^ 52 + n) / 2 ^ 52 = 0 := by omega
      rw [h1, if_pos rfl]
      simp only [zero_mul, zero_add, pow_zero, mul_one]
      omega
    · have h1 : (e * 2 ^ 52 + n) / 2 ^ 52 = e + 1 := by omega
      have h2 : (e * 2 ^ 52 + n) % 2 ^ 52 = n - 2 ^ 52 := by omega
      rw [h1, h2, if_neg (by omega), Nat.add_sub_cancel, Nat.add_sub_cancel' (by omega)]

theorem roundHalfEven_of_dvd (m sh : Nat) (h : 2 ^ sh ∣ m) : roundHalfEven m sh = m / 2 ^ sh := by
  unfold roundHalfEven
  rw [Nat.mod_eq_zero_of_dvd h]
  have : 0 < 2 ^ sh := Nat.two_pow_pos sh
  rw [if_neg (by omega)]

/-- A magnitude `n * 2^j` with at most 53 significant bits keeps all its low bits within the last place. -/
theorem roundShift_dvd (n j : Nat) (hn : n ≤ 2 ^ 53) (h0 : n * 2 ^ j ≠ 0) :
    2 ^ (Nat.log2 (n * 2 ^ j) - 52) ∣ n * 2 ^ j := by
  set m := n * 2 ^ j with hm
  by_cases hj : Nat.log2 m - 52 ≤ j
  · exact Dvd.dvd.mul_left (pow_dvd_pow 2 hj) n
  · have hle : 2 ^ Nat.log2 m ≤ m := Nat.log2_self_le h0
    have hge : m ≤ 2 ^ Nat.log2 m := by
      calc m ≤ 2 ^ 53 * 2 ^ j := Nat.mul_le_mul_right _ hn
        _ = 2 ^ (53 + j) := by rw [pow_add]
        _ ≤ 2 ^ Nat.log2 m := Nat.pow_le_pow_right (by norm_num) (by omega)
    have : m = 2 ^ Nat.log2 m := le_antisymm hge hle
    conv_rhs => rw [this]
    exact pow_dvd_pow 2 (by omega)

/-- Rounding is exact on a representable magnitude below `2^1024`. -/
theorem mag_roundMag_exact (s : Bool) (n j : Nat) (hn : n ≤ 2 ^ 53)
    (hlog : Nat.log2 (n * 2 ^ j) < 2098) :
    mag (packSign s (roundMag (n * 2 ^ j) 0)) = n * 2 ^ j ∧
      roundMag (n * 2 ^ j) 0 < 2047 * 2 ^ 52 := by
  by_cases h0 : n * 2 ^ j = 0
  · rw [h0, roundMag, if_pos rfl]
    exact ⟨by simpa using mag_packSign s 0 0 (by norm_num) (Or.inl rfl) (by norm_num), by norm_num⟩
  · have hdvd := roundShift_dvd n j hn h0
    set m := n * 2 ^ j with hm
    set e := Nat.log2 m - 52 with he
    have hsh : roundShift m 0 = e := by unfold roundShift; omega
    have hlt : m < 2 ^ (Nat.log2 m + 1) := Nat.lt_log2_self
    have hle : 2 ^ Nat.log2 m ≤ m := Nat.log2_self_le h0
    have hq : m / 2 ^ e * 2 ^ e = m := Nat.div_mul_cancel hdvd
    have hq53 : m / 2 ^ e < 2 ^ 53 := by
      rw [Nat.div_lt_iff_lt_mul (Nat.two_pow_pos e), ← pow_add]
      exact lt_of_lt_of_le hlt (Nat.pow_le_pow_right (by norm_num) (by omega))
    have hq52 : e = 0 ∨ 2 ^ 52 ≤ m / 2 ^ e := by
      by_cases hz : e = 0
      · exact Or.inl hz
      · refine Or.inr ?_
        rw [Nat.le_div_iff_mul_le (Nat.two_pow_pos e), ← pow_add]
        exact le_trans (Nat.pow_le_pow_right (by norm_num) (by omega)) hle
    have hsum : e * 2 ^ 52 + m / 2 ^ e < 2047 * 2 ^ 52 := by omega
    have hr : roundMag m 0 = e * 2 ^ 52 + m / 2 ^ e := by
      unfold roundMag
      rw [if_neg h0, hsh, Nat.sub_zero, roundHalfEven_of_dvd m e hdvd]
      exact min_eq_left hsum.le
    rw [hr]
    refine ⟨?_, hsum⟩
    rw [mag_packSign s e _ hq53.le hq52 hsum.le, hq]

/-- `round64` is exact on a representable number of units, and its result is finite. -/
theorem smag_round64_exact (r : Int) (n j : Nat) (hr : r.natAbs = n * 2 ^ j) (hn : n ≤ 2 ^ 53)
    (hlog : Nat.log2 (n * 2 ^ j) < 2098) :
    isFinite (round64 r 0 false) = true ∧ smag (round64 r 0 false) = r := by
  unfold round64
  by_cases h0 : r = 0
  · subst h0
    rw [if_pos rfl]
    exact ⟨by decide, by decide⟩
  · rw [if_neg h0, hr]
    obtain ⟨hm, hlt⟩ := mag_roundMag_exact (decide (r < 0)) n j hn hlog
    have h63 : roundMag (n * 2 ^ j) 0 < 2 ^ 63 := by omega
    refine ⟨?_, ?_⟩
    · unfold isFinite
      rw [expField_packSign _ _ h63]
      simp only [bne_iff_ne, ne_eq]
      omega
    · unfold smag
      rw [signBit_packSign _ _ h63, hm, ← hr]
      simp only [decide_eq_true_eq]
      split <;> omega

end Sys2Proof.Machine
end

