-- ==== Sys2Proof/Laws/ConformingRotator.lean ====
section
/-! SUPPORT. Conforming rotators exist: one is built (a truncated exponential series in exact rational
arithmetic, narrowed to a multiple of `2^-53`) and the properties T4 and T5 of spec 40_numerics.md
R131 are proved of it with the default `TRIG_EPS = 2^-52`.  It is evidence only: the model's rotator
is the free value `Config.rotatorOf`, of which nothing but the properties is known. -/

namespace Sys2Proof.Laws.ConformingRotator

open Sys2Proof.Machine

/-- The angle truncated to a multiple of `2^-64`. -/
def truncAngle (x : F64) : ℚ := (smag x / 2 ^ 1010 : ℤ) / 2 ^ 64

/-- Real and imaginary parts of `(i q)^m / m!`. -/
def expTerm (q : ℚ) : Nat → ℚ × ℚ
  | 0 => (1, 0)
  | m + 1 => (-(expTerm q m).2 * q / (m + 1), (expTerm q m).1 * q / (m + 1))

/-- The sum of the first 48 real parts: the cosine series. -/
def cosSum (q : ℚ) : ℚ := ∑ m ∈ Finset.range 48, (expTerm q m).1
/-- The sum of the first 48 imaginary parts: the sine series. -/
def sinSum (q : ℚ) : ℚ := ∑ m ∈ Finset.range 48, (expTerm q m).2

/-- The nearest multiple of `2^-53`, kept within `[-1, 1]`, as a count. -/
def quantize (q : ℚ) : ℤ := max (-2 ^ 53) (min (2 ^ 53) ⌊q * 2 ^ 53 + 1 / 2⌋)

/-- The binary64 datum `k * 2^-53`. -/
def ofQuant (k : ℤ) : F64 := round64 (k * 2 ^ 1021) 0 false

/-- The cosine of the witness. -/
def sampleCos (x : F64) : F64 :=
  if isFinite x = true ∧ |val x| ≤ val PI64 then ofQuant (quantize (cosSum (truncAngle x))) else ONE
/-- The sine of the witness. -/
def sampleSin (x : F64) : F64 :=
  if isFinite x = true ∧ |val x| ≤ val PI64 then ofQuant (quantize (sinSum (truncAngle x))) else ONE

theorem quantize_abs (q : ℚ) : (quantize q).natAbs ≤ 2 ^ 53 := by
  unfold quantize
  omega

theorem ofQuant_spec (k : ℤ) (hk : k.natAbs ≤ 2 ^ 53) :
    isFinite (ofQuant k) = true ∧ val (ofQuant k) = (k : ℚ) / 2 ^ 53 := by
  have hlog : Nat.log2 (k.natAbs * 2 ^ 1021) < 2098 := by
    by_cases h0 : k.natAbs = 0
    · rw [h0, Nat.zero_mul]; decide
    · refine (Nat.log2_lt ?_).2 ?_
      · exact Nat.mul_ne_zero h0 (Nat.two_pow_pos _).ne'
      · calc k.natAbs * 2 ^ 1021 ≤ 2 ^ 53 * 2 ^ 1021 := Nat.mul_le_mul_right _ hk
          _ = 2 ^ 1074 := by rw [← pow_add]
          _ < 2 ^ 2098 := Nat.pow_lt_pow_right (by norm_num) (by norm_num)
  have hn : ((k : ℤ) * 2 ^ 1021).natAbs = k.natAbs * 2 ^ 1021 := by
    rw [Int.natAbs_mul, Int.natAbs_pow]; rfl
  obtain ⟨h1, h2⟩ := smag_round64_exact (k * 2 ^ 1021) k.natAbs 1021 hn hk hlog
  refine ⟨h1, ?_⟩
  unfold val ofQuant
  rw [h2, unitExp]
  push_cast
  rw [show (2 : ℚ) ^ 1074 = 2 ^ 1021 * 2 ^ 53 by rw [← pow_add]]
  field_simp

theorem val_ONE : val ONE = 1 := by
  have h : smag ONE = 2 ^ 1074 := by decide +kernel
  unfold val
  rw [h, unitExp]
  push_cast
  exact div_self (by positivity)

theorem abs_val_PI64 : val PI64 ≤ 4 := by
  have h : smag PI64 ≤ 4 * 2 ^ 1074 := by decide +kernel
  unfold val unitExp
  rw [div_le_iff₀ (by positivity)]
  exact_mod_cast h

/-- A quantized value is within half a step of any real in `[-1, 1]` close to what was quantized. -/
theorem quantize_close (q : ℚ) (r : ℝ) (hr : |r| ≤ 1) :
    |((quantize q : ℚ) / 2 ^ 53 : ℝ) - r| ≤ |(q : ℝ) - r| + 1 / 2 ^ 54 := by
  set f : ℤ := ⌊q * 2 ^ 53 + 1 / 2⌋ with hf
  have h1 : (f : ℚ) ≤ q * 2 ^ 53 + 1 / 2 := Int.floor_le _
  have h2 : q * 2 ^ 53 + 1 / 2 < (f : ℚ) + 1 := Int.lt_floor_add_one _
  have h1' : (f : ℝ) ≤ (q : ℝ) * 2 ^ 53 + 1 / 2 := by
    simpa using (Rat.cast_le (K := ℝ)).2 h1
  have h2' : (q : ℝ) * 2 ^ 53 + 1 / 2 < (f : ℝ) + 1 := by
    simpa using (Rat.cast_lt (K := ℝ)).2 h2
  obtain ⟨hr1, hr2⟩ := abs_le.1 hr
  have hq := neg_abs_le ((q : ℝ) - r)
  have hq' := le_abs_self ((q : ℝ) - r)
  have hcase : quantize q = f ∨ (quantize q = 2 ^ 53 ∧ 2 ^ 53 ≤ f) ∨
      (quantize q = -2 ^ 53 ∧ f ≤ -2 ^ 53) := by
    unfold quantize
    omega
  rw [abs_le]
  rcases hcase with h | ⟨h, hle⟩ | ⟨h, hle⟩
  · rw [h]
    push_cast
    constructor <;> linarith
  · have : (2 ^ 53 : ℝ) ≤ f := by exact_mod_cast hle
    rw [h]
    push_cast
    constructor <;> linarith
  · have : (f : ℝ) ≤ -2 ^ 53 := by exact_mod_cast hle
    rw [h]
    push_cast
    constructor <;> linarith

theorem expTerm_eq (q : ℚ) (m : Nat) :
    ((expTerm q m).1 : ℂ) + ((expTerm q m).2 : ℂ) * Complex.I =
      ((q : ℂ) * Complex.I) ^ m / (m.factorial : ℂ) := by
  induction m with
  | zero => simp [expTerm]
  | succ m ih =>
    have hm : ((m : ℂ) + 1) ≠ 0 := by exact_mod_cast Nat.succ_ne_zero m
    have hf : (m.factorial : ℂ) ≠ 0 := by exact_mod_cast Nat.factorial_ne_zero m
    have hstep : ((q : ℂ) * Complex.I) ^ (m + 1) / ((m + 1).factorial : ℂ) =
        (((q : ℂ) * Complex.I) ^ m / (m.factorial : ℂ)) * (((q : ℂ) * Complex.I) / ((m : ℂ) + 1)) := by
      rw [pow_succ, Nat.factorial_succ]
      push_cast
      field_simp
    rw [hstep, ← ih]
    simp only [expTerm]
    push_cast
    field_simp
    ring_nf
    rw [Complex.I_sq]
    ring

theorem exp_sum_eq (q : ℚ) :
    ((cosSum q : ℚ) : ℂ) + ((sinSum q : ℚ) : ℂ) * Complex.I =
      ∑ m ∈ Finset.range 48, ((q : ℂ) * Complex.I) ^ m / (m.factorial : ℂ) := by
  rw [← Finset.sum_congr rfl (fun m _ => expTerm_eq q m), Finset.sum_add_distrib, ← Finset.sum_mul]
  unfold cosSum sinSum
  push_cast
  rfl

/-- The truncated series is within `2^-60` of the exponential for angles up to 5. -/
theorem exp_close (q : ℚ) (hq : |(q : ℝ)| ≤ 5) :
    ‖Complex.exp (((q : ℝ) : ℂ) * Complex.I) -
      ((((cosSum q : ℚ) : ℝ) : ℂ) + (((sinSum q : ℚ) : ℝ) : ℂ) * Complex.I)‖ ≤ 1 / 2 ^ 60 := by
  simp only [Complex.ofReal_ratCast]
  rw [exp_sum_eq]
  have hnorm : ‖(q : ℂ) * Complex.I‖ = |(q : ℝ)| := by
    rw [norm_mul, Complex.norm_I, mul_one, ← Complex.ofReal_ratCast, Complex.norm_real, Real.norm_eq_abs]
  refine (Complex.exp_bound' ?_).trans ?_
  · rw [hnorm, div_le_iff₀ (by positivity)]
    norm_num
    linarith
  · rw [hnorm]
    calc |(q : ℝ)| ^ 48 / (Nat.factorial 48 : ℝ) * 2 ≤ 5 ^ 48 / (Nat.factorial 48 : ℝ) * 2 := by gcongr
      _ ≤ 1 / 2 ^ 60 := by norm_num [Nat.factorial]

theorem cosSum_close (q : ℚ) (hq : |(q : ℝ)| ≤ 5) :
    |((cosSum q : ℚ) : ℝ) - Real.cos (q : ℝ)| ≤ 1 / 2 ^ 60 := by
  have h := (Complex.abs_re_le_norm _).trans (exp_close q hq)
  rw [Complex.sub_re, Complex.exp_ofReal_mul_I_re, Complex.add_re, Complex.mul_I_re,
    Complex.ofReal_re, Complex.ofReal_im, neg_zero, add_zero] at h
  rwa [abs_sub_comm]

theorem sinSum_close (q : ℚ) (hq : |(q : ℝ)| ≤ 5) :
    |((sinSum q : ℚ) : ℝ) - Real.sin (q : ℝ)| ≤ 1 / 2 ^ 60 := by
  have h := (Complex.abs_im_le_norm _).trans (exp_close q hq)
  rw [Complex.sub_im, Complex.exp_ofReal_mul_I_im, Complex.add_im, Complex.mul_I_im,
    Complex.ofReal_re, Complex.ofReal_im, zero_add] at h
  rwa [abs_sub_comm]

/-- Dividing by `2^a` towards minus infinity loses less than one. -/
theorem floor_close (m : ℤ) (a : Nat) : |(((m / 2 ^ a : ℤ) : ℚ) * 2 ^ a - m) / 2 ^ a| ≤ 1 := by
  have hpos : (0 : ℤ) < 2 ^ a := by positivity
  have h1 : m / 2 ^ a * 2 ^ a ≤ m := Int.ediv_mul_le _ hpos.ne'
  have h2 : m < (m / 2 ^ a + 1) * 2 ^ a := Int.lt_ediv_add_one_mul_self m hpos
  have h1' : ((m / 2 ^ a : ℤ) : ℚ) * 2 ^ a ≤ m := by exact_mod_cast h1
  have h2' : (m : ℚ) < (((m / 2 ^ a : ℤ) : ℚ) + 1) * 2 ^ a := by exact_mod_cast h2
  have hp : (0 : ℚ) < 2 ^ a := by positivity
  rw [abs_le]
  constructor
  · rw [le_div_iff₀ hp]; linarith
  · rw [div_le_iff₀ hp]; linarith

theorem truncAngle_close (x : F64) :
    |((truncAngle x : ℚ) : ℝ) - ((val x : ℚ) : ℝ)| ≤ 1 / 2 ^ 64 := by
  have hrat : |truncAngle x - val x| ≤ 1 / 2 ^ 64 := by
    have hc := floor_close (smag x) 1010
    unfold truncAngle val unitExp
    set d : ℤ := smag x / 2 ^ 1010
    have e : ((d : ℚ) / 2 ^ 64 - (smag x : ℚ) / 2 ^ 1074) =
        ((d : ℚ) * 2 ^ 1010 - smag x) / 2 ^ 1010 * (1 / 2 ^ 64) := by
      rw [show (2 : ℚ) ^ 1074 = 2 ^ 1010 * 2 ^ 64 by rw [← pow_add]]
      field_simp
    rw [e, abs_mul, abs_of_pos (show (0 : ℚ) < 1 / 2 ^ 64 by positivity)]
    exact mul_le_of_le_one_left (by positivity) hc
  simpa using (Rat.cast_le (K := ℝ)).2 hrat

theorem angle_small (x : F64) (hx : |val x| ≤ val PI64) : |((truncAngle x : ℚ) : ℝ)| ≤ 5 := by
  have h1 := truncAngle_close x
  have h2 : |((val x : ℚ) : ℝ)| ≤ 4 := by exact_mod_cast hx.trans abs_val_PI64
  have h3 : |((truncAngle x : ℚ) : ℝ)| ≤
      |((truncAngle x : ℚ) : ℝ) - ((val x : ℚ) : ℝ)| + |((val x : ℚ) : ℝ)| := by
    simpa using abs_add_le (((truncAngle x : ℚ) : ℝ) - ((val x : ℚ) : ℝ)) ((val x : ℚ) : ℝ)
  have : (1 : ℝ) / 2 ^ 64 ≤ 1 := by norm_num
  linarith

theorem quantize_range (q : ℚ) : isFinite (ofQuant (quantize q)) = true ∧
    |val (ofQuant (quantize q))| ≤ 1 := by
  obtain ⟨h1, h2⟩ := ofQuant_spec (quantize q) (quantize_abs q)
  refine ⟨h1, ?_⟩
  have hk := quantize_abs q
  have h3 : -(2 ^ 53 : ℤ) ≤ quantize q ∧ quantize q ≤ 2 ^ 53 := by omega
  have h4 : -(2 ^ 53 : ℚ) ≤ (quantize q : ℚ) ∧ (quantize q : ℚ) ≤ 2 ^ 53 :=
    ⟨by exact_mod_cast h3.1, by exact_mod_cast h3.2⟩
  rw [h2, abs_le]
  constructor
  · rw [le_div_iff₀ (by positivity)]; linarith [h4.1]
  · rw [div_le_iff₀ (by positivity)]; linarith [h4.2]

theorem quantize_accuracy (q : ℚ) (r r' : ℝ) (hr : |r| ≤ 1) (h1 : |(q : ℝ) - r'| ≤ 1 / 2 ^ 60)
    (h2 : |r' - r| ≤ 1 / 2 ^ 64) :
    |((val (ofQuant (quantize q)) : ℚ) : ℝ) - r| ≤ 1 / 2 ^ 52 := by
  obtain ⟨-, hv⟩ := ofQuant_spec (quantize q) (quantize_abs q)
  have h3 : |(q : ℝ) - r| ≤ 1 / 2 ^ 60 + 1 / 2 ^ 64 := by
    calc |(q : ℝ) - r| = |((q : ℝ) - r') + (r' - r)| := by ring_nf
      _ ≤ |(q : ℝ) - r'| + |r' - r| := abs_add_le _ _
      _ ≤ _ := add_le_add h1 h2
  have h4 := quantize_close q r hr
  rw [hv]
  push_cast
  push_cast at h4
  refine h4.trans ?_
  have : (1 : ℝ) / 2 ^ 60 + 1 / 2 ^ 64 + 1 / 2 ^ 54 ≤ 1 / 2 ^ 52 := by norm_num
  linarith

theorem sample_range (f : ℚ → ℚ) (x : F64) :
    isFinite (if isFinite x = true ∧ |val x| ≤ val PI64 then ofQuant (quantize (f (truncAngle x)))
      else ONE) = true ∧
    |val (if isFinite x = true ∧ |val x| ≤ val PI64 then ofQuant (quantize (f (truncAngle x)))
      else ONE)| ≤ 1 := by
  split
  · exact quantize_range _
  · exact ⟨by decide, by rw [val_ONE]; norm_num⟩

/-- The default bound as a quotient of reals. -/
theorem defaultTrigEps_eq : Config.defaultTrigEps = 1 / 2 ^ 52 := by
  have h : Config.defaultTrigEps = (((1 / 2 ^ 52 : ℚ)) : ℝ) := rfl
  rw [h]
  push_cast
  rfl

/-- A conforming rotator (R131), with the default `TRIG_EPS = 2^-52` (R6). -/
def sample : Config.Rotator where
  cos := sampleCos
  sin := sampleSin
  eps := Config.defaultTrigEps
  eps_pos := by rw [defaultTrigEps_eq]; positivity
  cos_range := fun x _ => sample_range cosSum x
  sin_range := fun x _ => sample_range sinSum x
  cos_accuracy := by
    intro x hf hx
    unfold sampleCos
    rw [if_pos ⟨hf, hx⟩]
    refine (quantize_accuracy _ _ _ (Real.abs_cos_le_one _) (cosSum_close _ (angle_small x hx))
      ((Real.abs_cos_sub_cos_le _ _).trans (truncAngle_close x))).trans ?_
    rw [defaultTrigEps_eq]
  sin_accuracy := by
    intro x hf hx
    unfold sampleSin
    rw [if_pos ⟨hf, hx⟩]
    refine (quantize_accuracy _ _ _ (Real.abs_sin_le_one _) (sinSum_close _ (angle_small x hx))
      ((Real.abs_sin_sub_sin_le _ _).trans (truncAngle_close x))).trans ?_
    rw [defaultTrigEps_eq]

/-- The conforming rotator has the default bound. -/
theorem sample_eps : sample.eps = Config.defaultTrigEps := rfl

end Sys2Proof.Laws.ConformingRotator
end

