-- ==== Sys2Proof/Machine/Rotator.lean ====
section
/-! DEFINITION. The rotator TWR's two functions `COS` and `SIN` (spec 40_numerics.md R129 to R132).
Properties T2 and T3 are written out; beyond them the functions are those of the part's rotator, a
free value of which only T1, T4 and T5 are known. -/

namespace Sys2Proof.Machine

/-- The rotator of the part (R129): a free value, see `Config.rotatorOf`. -/
def rotator : Config.Rotator := @Config.rotatorOf ⟨Laws.ConformingRotator.sample⟩

/-- `TRIG_EPS`, the absolute accuracy bound of `COS` and `SIN` on `[-pi, pi]`: a real number above zero
(R6, R131 T5). -/
def TRIG_EPS : ℝ := rotator.eps

/-- `COS` (R131): 1.0 at either zero (T2), `CNAN` at a NaN or an infinity (T3), else the rotator's. -/
def COS (x : F64) : F64 :=
  if isZero x then ONE else if isFinite x then rotator.cos x else CNAN

/-- `SIN` (R131): the operand itself at either zero (T2), `CNAN` at a NaN or an infinity (T3), else the
rotator's. -/
def SIN (x : F64) : F64 :=
  if isZero x then x else if isFinite x then rotator.sin x else CNAN

/-- The part's rotator is the reference instance (R132): the correctly rounded functions.  A claim that
needs a particular twiddle value must assume it and say so (R129). -/
def ReferenceRotator : Prop :=
  ∀ x : F64, isFinite x = true → isZero x = false →
    RoundsTo (Real.cos ((val x : ℚ) : ℝ)) false (COS x) ∧
    RoundsTo (Real.sin ((val x : ℚ) : ℝ)) (signBit x) (SIN x)

/-- The part has every parameter of its rotator at the default of R6: the reference instance, with
`TRIG_EPS = 2^-52`.  The defaults of the other parameters are `Config.Params.default`. -/
def DefaultRotator : Prop := ReferenceRotator ∧ TRIG_EPS = Config.defaultTrigEps

end Sys2Proof.Machine
end

