-- ==== Sys2Proof/Machine/Complex.lean ====
section
/-! DEFINITION. The complex functions, the twiddle factor and the butterfly (spec
41_complex_arithmetic.md R140 to R144, 42_butterfly_twiddle.md R150 to R153).  Every `fadd`, `fsub` and
`fmul` is rounded on its own, in the order written (40_numerics.md R125, R127). -/

namespace Sys2Proof.Machine

/-- `cadd(x, y)` (R140). -/
def cadd (x y : Cplx) : Cplx := { re := fadd x.re y.re, im := fadd x.im y.im }

/-- `csub(x, y)` (R141). -/
def csub (x y : Cplx) : Cplx := { re := fsub x.re y.re, im := fsub x.im y.im }

/-- `cmul(x, y)`: `(ac - bd) + (ad + bc)i`, six roundings (R142). -/
def cmul (x y : Cplx) : Cplx :=
  { re := fsub (fmul x.re y.re) (fmul x.im y.im)
    im := fadd (fmul x.re y.im) (fmul x.im y.re) }

/-- `cconj(x)`: the real word untouched, bit 63 of the imaginary word inverted (R143). -/
def cconj (x : Cplx) : Cplx := { re := x.re, im := fneg x.im }

/-- `cpolar(mag, ang)` (R144). -/
def cpolar (mag ang : F64) : Cplx := { re := fmul mag (COS ang), im := fmul mag (SIN ang) }

/-- `theta(s, k)`, the twiddle angle `-2 pi k / 2^s` (R150). -/
def theta (s k : Nat) : F64 := fmul (fmul NEG_TWO_PI (i2f k)) (pow2 (-(s : Int)))

/-- `TW(s, k)`, the twiddle factor (R151). -/
def TW (s k : Nat) : Cplx := cpolar ONE (theta s k)

/-- `bfly(E, O, Wt)`: `t = cmul(O, Wt)`, then `(E + t, E - t)` (R153). -/
def bfly (e o w : Cplx) : Cplx × Cplx := (cadd e (cmul o w), csub e (cmul o w))

/-- One element of the IFFT post-processing: the real word scaled by `2^-p`, the imaginary word negated
and not scaled (R185, R187). -/
def post (p : Nat) (y : Cplx) : Cplx := { re := fmul y.re (pow2 (-(p : Int))), im := fneg y.im }

/-- The complex zero that padding writes (R197). -/
def czero : Cplx := { re := PZERO, im := PZERO }

end Sys2Proof.Machine
end

