-- ==== Sys2Proof/Machine/State.lean ====
section
/-! DEFINITION. The state of FFTCORE (spec 10_state.md R20), the host's side of it (20_memory.md R62 to
R65), the reasons a step can stop, and the state after reset (10_state.md R47). -/

namespace Sys2Proof.Machine

/-- A complex register (R21): its pair of words, and whether anything has written it since reset (R57).
The pair of a register that nothing has written is never read: a read draws free words. -/
structure CReg where
  written : Bool
  value : Cplx
  deriving DecidableEq, Repr

/-- DMEM (R43, R60): the words written since reset, as (word index, word) in strictly rising order of
index.  A word that is not listed is one that nothing has written (R57).  A word is the smallest unit
any agent can read or write (R60), so the cells are 64-bit words; see notes/assumptions/2.md. -/
abbrev Memory := List (Nat × F64)

/-- The four synchronous exceptions (R215, R216). -/
inductive Cause where
  | illegalCommand
  | invalidLength
  | capacityExceeded
  | badOperand
  deriving DecidableEq, Repr

/-- The host's four transactions (R62).  The width of a data access is always 8 bytes (R66). -/
inductive HostTxn where
  | csrRead (x : Fin 16)
  | csrWrite (x : Fin 16) (v : Word32)
  | memRead (j : Nat)
  | memWrite (j : Nat) (v : F64)
  deriving DecidableEq, Repr

/-- The two index spaces as a byte-addressed bridge maps them (R71). -/
inductive Region where
  | dmem
  | csr
  deriving DecidableEq, Repr

/-- What the host asks for: a transaction, or a bus access of a byte-addressed bridge (R71, R72) at a byte
offset in a region, with the bytes of a write given lowest address first. -/
inductive Request where
  | direct (t : HostTxn)
  | busRead (r : Region) (offset width : Nat)
  | busWrite (r : Region) (offset : Nat) (bytes : List (BitVec 8))
  deriving DecidableEq, Repr

/-- One line of a host script (R102): a request, or `wait`, which repeats `CsrRead(2)` until `BUSY` is 0. -/
inductive ScriptLine where
  | request (q : Request)
  | wait
  deriving DecidableEq, Repr

/-- How a request of the host ended (R65): `Ok`, with data for a read, or `BusError`.  `lostAtReset`: it
was held when reset occurred (R250).  A request that is held has no response yet. -/
inductive Response where
  | ok
  | word32 (v : Word32)
  | word64 (v : F64)
  | bytes (bs : List (BitVec 8))
  | busError
  | lostAtReset
  deriving DecidableEq, Repr

/-- Who takes a step (R13), `reset` being the one transition of R47 that may be taken at any time. -/
inductive Agent where
  | host
  | sequencer
  | reset
  deriving DecidableEq, Repr

/-- Why a step faults.  Neither is a fault of the spec's R215, which is a next state; no run from reset
reaches either. -/
inductive Fault where
  /-- Raised by the sequencer step when a micro-op names an entry `>= NMAX`, a word that does not exist
  (R66, R74).  Safe: the machine stops; R81 says it never happens. -/
  | nonexistentEntry
  /-- Raised by `step` when `BUSY = 1` and `CMDW` decodes to no command.  Safe: the machine stops; R42
  writes `CMDW` only with an accepted command. -/
  | latchUndecodable
  deriving DecidableEq, Repr

/-- Why a step is refused. -/
inductive Refusal where
  /-- The instruction has no meaning yet.  Raised by no arm of `exec`. -/
  | notModelled (mnemonic : String)
  /-- A read of a never-written word under the parameter value `UNWRITTEN = refuse` (R57: "the model
  marks the run refused").  Raised by the sequencer step and by the host's `MemRead`.  Safe: the run
  stops. -/
  | unwrittenRead
  deriving DecidableEq, Repr

/-- The state of the block and of the host that drives it. -/
structure State where
  /-- The parameters of the part (R6).  Not state of the block: no step changes them (R58). -/
  params : Config.Params
  /-- The complex register file `C[0..7]` (R21). -/
  cregs : Vector CReg 8
  /-- The data memory `W[0 .. 2*NMAX-1]` (R43). -/
  mem : Memory
  /-- `STATUS.BUSY` (R33). -/
  busy : Bool
  /-- `STATUS.DONE` (R33). -/
  done : Bool
  /-- `STATUS.ERR` (R33). -/
  err : Bool
  /-- `STATUS.CAUSE` (R33). -/
  cause : BitVec 4
  /-- `CTRL.IE` (R34). -/
  ie : Bool
  /-- `N` (R35). -/
  n : Word32
  /-- `LEN` (R36). -/
  len : Word32
  /-- `ERRINFO` (R37). -/
  errinfo : Word32
  /-- `pos`, the sequencer position, read as `SEQ` (R24, R38). -/
  pos : Word32
  /-- `CMDW`, the word of the last accepted command (R39, R42). -/
  cmdw : Word32
  /-- `NL`, the length latched at issue (R42). -/
  nl : Word32
  /-- `LL`, the original length latched at issue (R42). -/
  ll : Word32
  /-- The model's own: how many words of never-written state have been drawn (R57). -/
  draws : Nat
  /-- The host's: what it has still to issue, next first (R62, R76, R102). -/
  script : List ScriptLine
  /-- The host's: the request it has issued that is held, if any (R65). -/
  held : Option Request
  /-- The model's own: who moves next, in order; when it is empty the sequencer moves while `BUSY = 1`
  and the host otherwise (R75). -/
  schedule : List Agent
  /-- The host's: the responses so far, oldest first (R65, R266). -/
  responses : List Response
  deriving DecidableEq, Repr

/-- A register that nothing has written.  Its pair of words is never read. -/
def CReg.unwritten : CReg := { written := false, value := { re := 0, im := 0 } }

/-- The state after reset (R47, R250), with the default parameters (R6), nothing written to `C[]` or DMEM
(R57), and a host that has nothing to do. -/
def State.reset : State where
  params := Config.Params.default
  cregs := Vector.replicate 8 CReg.unwritten
  mem := []
  busy := false
  done := false
  err := false
  cause := 0
  ie := false
  n := 0
  len := 0
  errinfo := 0
  pos := 0
  cmdw := 0
  nl := 0
  ll := 0
  draws := 0
  script := []
  held := none
  schedule := []
  responses := []

/-- What a step or a meaning answers. -/
abbrev Result := Host.Outcome State Fault Refusal

end Sys2Proof.Machine
end

