-- ==== Sys2Proof/Machine/Ops.lean ====
section
/-! DEFINITION. The named operations on the state: data memory, the register file, reads of never-written
words, taking a fault and clearing it, accepting and retiring a command. -/

namespace Sys2Proof.Machine

/-! ### Data memory (20_memory.md R60, R66, R67) -/

/-- The word at index `j`, if anything has written it since reset. -/
def Memory.lookup : Memory → Nat → Option F64
  | [], _ => none
  | (a, v) :: m, j => if j = a then some v else Memory.lookup m j

/-- `W[j] <- v`, keeping the indices strictly rising. -/
def Memory.write : Memory → Nat → F64 → Memory
  | [], j, v => [(j, v)]
  | (a, u) :: m, j, v =>
    if j < a then (j, v) :: (a, u) :: m
    else if j = a then (j, v) :: m
    else (a, u) :: Memory.write m j v

/-- The canonical form: indices strictly rising, and every index one of the `bound` words that exist. -/
abbrev Memory.wf (bound : Nat) (m : Memory) : Prop :=
  (m.map Prod.fst).Pairwise (· < ·) ∧ ∀ c ∈ m, c.1 < bound

/-- How many words DMEM has: `2 * NMAX` (R43). -/
def State.wordCount (s : State) : Nat := 2 * s.params.nmax

/-- Draw one word of never-written state: a free value, a fresh one at each read (R57). -/
def draw (s : State) : F64 × State := (Config.freeWord s.draws, { s with draws := s.draws + 1 })

/-- Read `W[j]` (R43, R57). -/
def readWord (j : Nat) (s : State) : F64 × State :=
  match s.mem.lookup j with
  | some v => (v, s)
  | none => draw s

/-- `W[j] <- v`. -/
def writeWord (j : Nat) (v : F64) (s : State) : State := { s with mem := s.mem.write j v }

/-- Read `D[i]`, the word pair `(W[2i], W[2i+1])`, the real word first (R43, R81). -/
def readEntry (i : Nat) (s : State) : Cplx × State :=
  let re := readWord (2 * i) s
  let im := readWord (2 * i + 1) re.2
  ({ re := re.1, im := im.1 }, im.2)

/-- `D[i] <- v`: both words (R10, R81). -/
def writeEntry (i : Nat) (v : Cplx) (s : State) : State :=
  writeWord (2 * i + 1) v.im (writeWord (2 * i) v.re s)

/-! ### The register file (10_state.md R21, R22) -/

/-- Read `C[r]`, always as a whole pair (R21); a register that nothing has written draws both words
(R57). -/
def readReg (r : Reg) (s : State) : Cplx × State :=
  if s.cregs[r].written then (s.cregs[r].value, s)
  else
    let re := draw s
    let im := draw re.2
    ({ re := re.1, im := im.1 }, im.2)

/-- `C[r] <- v`: both words (R10, R21). -/
def writeReg (r : Reg) (v : Cplx) (s : State) : State :=
  { s with cregs := s.cregs.set r { written := true, value := v } }

/-! ### Taking a fault and clearing it (60_exceptions.md R216, R222, R226) -/

/-- The 4-bit code of a cause (R216). -/
def Cause.code : Cause → BitVec 4
  | .illegalCommand => 1
  | .invalidLength => 2
  | .capacityExceeded => 3
  | .badOperand => 4

/-- `raise Fault(cause, info)` (R222): the fault record is written and nothing else changes. -/
def raiseFault (c : Cause) (info : Word32) (s : State) : State :=
  { s with err := true, done := false, cause := c.code, errinfo := info }

/-- The effect of `CTRL.CLR`, the block's only return from a fault (R34, R226). -/
def clearRecord (s : State) : State :=
  { s with done := false, err := false, cause := 0, errinfo := 0 }

/-! ### The life of a command (60_exceptions.md R218, 10_state.md R27) -/

/-- Acceptance of the command word `w` (R218 step 5, R42). -/
def accept (w : Word32) (s : State) : State :=
  { s with cmdw := w, nl := s.n, ll := s.len, pos := 0, busy := true, done := false }

/-- `pos <- pos + 1` (R27). -/
def advance (s : State) : State := { s with pos := s.pos + 1 }

/-- The retire step (R27). -/
def retire (s : State) : State := { s with busy := false, done := true }

end Sys2Proof.Machine
end

