-- ==== Sys2Proof/Machine/MicroOps.lean ====
section
/-! DEFINITION. What one step of each micro-op does (spec 10_state.md R26), one definition each, and the
sequencer step around it (R27).  In every row all reads precede all writes (00_scope.md R11). -/

namespace Sys2Proof.Machine

/-- `uCADD d a b`: `C[d] <- cadd(C[a], C[b])`. -/
def microCadd (d a b : Reg) (s : State) : State :=
  let x := readReg a s
  let y := readReg b x.2
  writeReg d (cadd x.1 y.1) y.2

/-- `uCSUB d a b`: `C[d] <- csub(C[a], C[b])`. -/
def microCsub (d a b : Reg) (s : State) : State :=
  let x := readReg a s
  let y := readReg b x.2
  writeReg d (csub x.1 y.1) y.2

/-- `uCMUL d a b`: `C[d] <- cmul(C[a], C[b])`. -/
def microCmul (d a b : Reg) (s : State) : State :=
  let x := readReg a s
  let y := readReg b x.2
  writeReg d (cmul x.1 y.1) y.2

/-- `uCCONJ d a`: `C[d] <- cconj(C[a])`. -/
def microCconj (d a : Reg) (s : State) : State :=
  let x := readReg a s
  writeReg d (cconj x.1) x.2

/-- `uCPOLAR d a`: `C[d] <- cpolar(C[a].re, C[a].im)`. -/
def microCpolar (d a : Reg) (s : State) : State :=
  let x := readReg a s
  writeReg d (cpolar x.1.re x.1.im) x.2

/-- `uTWID d s k`: `C[d] <- TW(s, k)`. -/
def microTwid (d : Reg) (stage k : Nat) (s : State) : State := writeReg d (TW stage k) s

/-- `uBFLYR e o w`: `(P, Q) = bfly(C[e], C[o], C[w]); C[e] <- P; C[o] <- Q`. -/
def microBflyr (e o w : Reg) (s : State) : State :=
  let x := readReg e s
  let y := readReg o x.2
  let z := readReg w y.2
  let pq := bfly x.1 y.1 z.1
  writeReg o pq.2 (writeReg e pq.1 z.2)

/-- `uLD d i`: `C[d] <- D[i]`. -/
def microLd (d : Reg) (i : Nat) (s : State) : State :=
  let x := readEntry i s
  writeReg d x.1 x.2

/-- `uST r i`: `D[i] <- C[r]`. -/
def microSt (r : Reg) (i : Nat) (s : State) : State :=
  let x := readReg r s
  writeEntry i x.1 x.2

/-- `uSWAP i j`: `(x, y) = (D[i], D[j]); D[i] <- y; D[j] <- x`. -/
def microSwap (i j : Nat) (s : State) : State :=
  let x := readEntry i s
  let y := readEntry j x.2
  writeEntry j x.1 (writeEntry i y.1 y.2)

/-- `uBFLYM a b s k`: `(P, Q) = bfly(D[a], D[b], TW(s, k)); D[a] <- P; D[b] <- Q`. -/
def microBflym (a b stage k : Nat) (s : State) : State :=
  let x := readEntry a s
  let y := readEntry b x.2
  let pq := bfly x.1 y.1 (TW stage k)
  writeEntry b pq.2 (writeEntry a pq.1 y.2)

/-- `uCONJM i`: `D[i] <- cconj(D[i])`. -/
def microConjm (i : Nat) (s : State) : State :=
  let x := readEntry i s
  writeEntry i (cconj x.1) x.2

/-- `uPOSTM i p`: `D[i] <- (fmul(D[i].re, pow2(-p)), fneg(D[i].im))`. -/
def microPostm (i p : Nat) (s : State) : State :=
  let x := readEntry i s
  writeEntry i (post p x.1) x.2

/-- `uZERO i`: both words of the entry become `+0`. -/
def microZero (i : Nat) (s : State) : State := writeEntry i czero s

/-- `uLIFT i`: `W[2i+1] <- +0`; `W[2i]` is neither read nor written. -/
def microLift (i : Nat) (s : State) : State := writeWord (2 * i + 1) PZERO s

/-- `uSETN v`: `CSR.N <- v`. -/
def microSetn (v : Word32) (s : State) : State := { s with n := v }

/-- The effect of a micro-op (R26). -/
def perform (u : UOp) (s : State) : State :=
  match u with
  | .nop => s
  | .cadd d a b => microCadd d a b s
  | .csub d a b => microCsub d a b s
  | .cmul d a b => microCmul d a b s
  | .cconj d a => microCconj d a s
  | .cpolar d a => microCpolar d a s
  | .twid d st k => microTwid d st k s
  | .bflyr e o w => microBflyr e o w s
  | .ld d i => microLd d i s
  | .st r i => microSt r i s
  | .swap i j => microSwap i j s
  | .bflym a b st k => microBflym a b st k s
  | .conjm i => microConjm i s
  | .postm i p => microPostm i p s
  | .zero i => microZero i s
  | .lift i => microLift i s
  | .setn v => microSetn v s

/-- The registers a micro-op reads (R22, R26). -/
def regsRead : UOp → List Reg
  | .nop => []
  | .cadd _ a b => [a, b]
  | .csub _ a b => [a, b]
  | .cmul _ a b => [a, b]
  | .cconj _ a => [a]
  | .cpolar _ a => [a]
  | .twid _ _ _ => []
  | .bflyr e o w => [e, o, w]
  | .ld _ _ => []
  | .st r _ => [r]
  | .swap _ _ => []
  | .bflym _ _ _ _ => []
  | .conjm _ => []
  | .postm _ _ => []
  | .zero _ => []
  | .lift _ => []
  | .setn _ => []

/-- The entries a micro-op reads (R26, R81). -/
def entriesRead : UOp → List Nat
  | .nop => []
  | .cadd _ _ _ => []
  | .csub _ _ _ => []
  | .cmul _ _ _ => []
  | .cconj _ _ => []
  | .cpolar _ _ => []
  | .twid _ _ _ => []
  | .bflyr _ _ _ => []
  | .ld _ i => [i]
  | .st _ _ => []
  | .swap i j => [i, j]
  | .bflym a b _ _ => [a, b]
  | .conjm i => [i]
  | .postm i _ => [i]
  | .zero _ => []
  | .lift _ => []
  | .setn _ => []

/-- The entries a micro-op names, read or written (R26, R81). -/
def entriesNamed : UOp → List Nat
  | .nop => []
  | .cadd _ _ _ => []
  | .csub _ _ _ => []
  | .cmul _ _ _ => []
  | .cconj _ _ => []
  | .cpolar _ _ => []
  | .twid _ _ _ => []
  | .bflyr _ _ _ => []
  | .ld _ i => [i]
  | .st _ i => [i]
  | .swap i j => [i, j]
  | .bflym a b _ _ => [a, b]
  | .conjm i => [i]
  | .postm i _ => [i]
  | .zero i => [i]
  | .lift i => [i]
  | .setn _ => []

/-- Something has written `C[r]` since reset (R57). -/
def regWritten (r : Reg) (s : State) : Bool := s.cregs[r].written

/-- Something has written `W[j]` since reset (R57). -/
def wordWritten (j : Nat) (s : State) : Bool := (s.mem.lookup j).isSome

/-- Something has written both words of `D[i]` since reset (R57). -/
def entryWritten (i : Nat) (s : State) : Bool := wordWritten (2 * i) s && wordWritten (2 * i + 1) s

/-- Everything the micro-op reads has been written since reset. -/
def readsWritten (u : UOp) (s : State) : Bool :=
  (regsRead u).all (fun r => regWritten r s) && (entriesRead u).all (fun i => entryWritten i s)

/-- What the part lets a micro-op read: anything, or, under `UNWRITTEN = refuse`, only what has been
written (R57). -/
def mayRead (u : UOp) (s : State) : Bool :=
  match s.params.unwritten with
  | .anyValue => true
  | .refuse => readsWritten u s

/-- Every entry the micro-op names exists (R81). -/
def namesExist (u : UOp) (s : State) : Bool :=
  (entriesNamed u).all (fun i => decide (i < s.params.nmax))

/-- One micro-op and the advance of `pos` (R27). -/
def microStep (u : UOp) (s : State) : Result :=
  if namesExist u s = false then .fault .nonexistentEntry
  else if mayRead u s = false then .refused .unwrittenRead
  else .next (advance (perform u s))

/-- The sequencer step over the micro-op list of the command in flight (R27): the micro-op at `pos`, or
the retire step at the end of the list. -/
def sequencerStep (uops : List UOp) (s : State) : Result :=
  match uops[s.pos.toNat]? with
  | some u => microStep u s
  | none => .next (retire s)

end Sys2Proof.Machine
end

