-- ==== Sys2Proof/Machine/Operands.lean ====
section
/-! DEFINITION. The operands of commands: the implicit lengths `NL` and `LL`, the integer functions on
them, and the checks of operand values made at issue (spec 30_encoding.md R94, 40_numerics.md R135 to
R139, 60_exceptions.md R219). -/

namespace Sys2Proof.Machine

/-! ### Integer laws (40_numerics.md R137 to R139) -/

/-- `rev(p, i)`: the low `p` bits of `i` read backwards (R137). -/
def rev : Nat → Nat → Nat
  | 0, _ => 0
  | p + 1, i => i % 2 * 2 ^ p + rev p (i / 2)

/-- `ispow2(n)`: `n >= 1` and `n and (n - 1) = 0` (R138). -/
def ispow2 (n : Nat) : Bool := decide (1 ≤ n) && decide (n &&& (n - 1) = 0)

/-- `log2(n)`: the index of the highest bit; `log2(0) = 0` (R138). -/
def log2 (n : Nat) : Nat := Nat.log2 n

/-- `npow2(L)`: 1 when `L <= 1` as a signed integer, else the smallest power of two `>= L` (R139). -/
def npow2 (l : Word32) : Word32 :=
  if l.toInt ≤ 1 then 1 else BitVec.ofNat 32 (2 ^ (Nat.log2 (l.toNat - 1) + 1))

/-! ### Issue checks (60_exceptions.md R219) -/

/-- What a failed check records: the cause and the value for `ERRINFO` (R216). -/
abbrev FaultRecord := Cause × Word32

/-- `NL = 0` or `ispow2(NL)`, else `InvalidLength` with `ERRINFO = NL` (R216, R219). -/
def lengthCheck (nl : Word32) : Option FaultRecord :=
  if nl.toNat = 0 ∨ ispow2 nl.toNat = true then none else some (.invalidLength, nl)

/-- `NL <= NMAX`, else `CapacityExceeded` with `ERRINFO = NL` (R216, R219). -/
def capacityCheck (nmax : Nat) (nl : Word32) : Option FaultRecord :=
  if nl.toNat ≤ nmax then none else some (.capacityExceeded, nl)

/-- An operand test, else `BadOperand` with the given `ERRINFO` (R216, R219). -/
def operandCheck (ok : Bool) (info : Word32) : Option FaultRecord :=
  if ok then none else some (.badOperand, info)

/-- The length checks of `BITREV`, `FFT`, `IPOST` and `IFFT`, in their order (R219, R224). -/
def transformCheck (nmax : Nat) (nl : Word32) : Option FaultRecord :=
  (lengthCheck nl).or (capacityCheck nmax nl)

/-- `LL >= 0` and `LL <= NL`, comparing `LL` as a non-negative integer with the unsigned `NL` (R197). -/
def padFits (nl ll : Word32) : Bool := decide (0 ≤ ll.toInt) && decide (ll.toInt ≤ (nl.toNat : Int))

/-- `1 <= s <= bound` (R154, R171). -/
def stageInRange (s bound : Nat) : Bool := decide (1 ≤ s) && decide (s ≤ bound)

/-- `1 <= s <= LMAX` and `k < 2^(s-1)` (R154). -/
def twiddleInRange (lmax s k : Nat) : Bool := stageInRange s lmax && decide (k < 2 ^ (s - 1))

end Sys2Proof.Machine
end

