-- ==== Sys2Proof/Machine/Issue.lean ====
section
/-! DEFINITION. The life of a command: issue (spec 60_exceptions.md R218) while the block is idle, and
one sequencer step (10_state.md R27) while it is busy.  Every command's meaning is this operation
applied to its word, its issue checks and its micro-op list. -/

namespace Sys2Proof.Machine

/-- Command issue of a word that decodes, from `BUSY = 0` (R218 steps 2, 4 and 5): discarded while a fault
is recorded; a failed check raises its fault; otherwise the command is accepted. -/
def issue (w : Word32) (failed : Option FaultRecord) (s : State) : State :=
  if s.err then s
  else
    match failed with
    | some f => raiseFault f.1 f.2 s
    | none => accept w s

/-- A command of word `w`, whose issue checks on `N` and `LEN` answer `failed` and whose list is `uops` of
the latched lengths: issue when idle, a sequencer step of it when it is in flight (R13, R218, R27). -/
def command (w : Word32) (failed : Word32 → Word32 → Option FaultRecord)
    (uops : Word32 → Word32 → List UOp) (s : State) : Result :=
  if s.busy then sequencerStep (uops s.nl s.ll) s
  else .next (issue w (failed s.n s.len) s)

end Sys2Proof.Machine
end

