-- ==== Sys2Proof/Machine/Arith.lean ====
section
/-! DEFINITION. The register commands of spec 41_complex_arithmetic.md: `CADD CSUB CMUL CCONJ CPOLAR`.
None has a check beyond decoding (R219); each expands to one micro-op. -/

namespace Sys2Proof.Machine

/-- `expand` of `CADD` (R145). -/
def expandCadd (rd ra rb : Reg) : List UOp := [.cadd rd ra rb]
/-- `CADD cd, ca, cb` (R145). -/
def execCadd (rd ra rb : Reg) (s : State) : Result :=
  command (encode (.cadd rd ra rb)) (fun _ _ => none) (fun _ _ => expandCadd rd ra rb) s

/-- `expand` of `CSUB` (R146). -/
def expandCsub (rd ra rb : Reg) : List UOp := [.csub rd ra rb]
/-- `CSUB cd, ca, cb` (R146). -/
def execCsub (rd ra rb : Reg) (s : State) : Result :=
  command (encode (.csub rd ra rb)) (fun _ _ => none) (fun _ _ => expandCsub rd ra rb) s

/-- `expand` of `CMUL` (R147). -/
def expandCmul (rd ra rb : Reg) : List UOp := [.cmul rd ra rb]
/-- `CMUL cd, ca, cb` (R147). -/
def execCmul (rd ra rb : Reg) (s : State) : Result :=
  command (encode (.cmul rd ra rb)) (fun _ _ => none) (fun _ _ => expandCmul rd ra rb) s

/-- `expand` of `CCONJ` (R148). -/
def expandCconj (rd ra : Reg) : List UOp := [.cconj rd ra]
/-- `CCONJ cd, ca` (R148). -/
def execCconj (rd ra : Reg) (s : State) : Result :=
  command (encode (.cconj rd ra)) (fun _ _ => none) (fun _ _ => expandCconj rd ra) s

/-- `expand` of `CPOLAR` (R149). -/
def expandCpolar (rd ra : Reg) : List UOp := [.cpolar rd ra]
/-- `CPOLAR cd, ca` (R149). -/
def execCpolar (rd ra : Reg) (s : State) : Result :=
  command (encode (.cpolar rd ra)) (fun _ _ => none) (fun _ _ => expandCpolar rd ra) s

end Sys2Proof.Machine
end

