-- ==== Sys2Proof/Machine/Butterfly.lean ====
section
/-! DEFINITION. The rotator and butterfly commands of spec 42_butterfly_twiddle.md: `TWID BFLY`. -/

namespace Sys2Proof.Machine

/-- Issue check of `TWID` (R154, R219): `1 <= s <= LMAX` and `k < 2^(s-1)`. -/
def checkTwid (lmax : Nat) (rd : Reg) (st k : Nat) : Option FaultRecord :=
  operandCheck (twiddleInRange lmax st k) (encode (.twid rd st k))
/-- `expand` of `TWID` (R154). -/
def expandTwid (rd : Reg) (st k : Nat) : List UOp := [.twid rd st k]
/-- `TWID cd, s, k` (R154). -/
def execTwid (rd : Reg) (st k : Nat) (s : State) : Result :=
  command (encode (.twid rd st k)) (fun _ _ => checkTwid s.params.lmax rd st k)
    (fun _ _ => expandTwid rd st k) s

/-- Issue check of `BFLY` (R155, R219): `e != o`. -/
def checkBfly (rd ra rb : Reg) : Option FaultRecord :=
  operandCheck (decide (rd ≠ ra)) (encode (.bfly rd ra rb))
/-- `expand` of `BFLY` (R155). -/
def expandBfly (rd ra rb : Reg) : List UOp := [.bflyr rd ra rb]
/-- `BFLY ce, co, cw` (R155). -/
def execBfly (rd ra rb : Reg) (s : State) : Result :=
  command (encode (.bfly rd ra rb)) (fun _ _ => checkBfly rd ra rb)
    (fun _ _ => expandBfly rd ra rb) s

end Sys2Proof.Machine
end

