-- ==== Sys2Proof/Machine/Forward.lean ====
section
/-! DEFINITION. The forward transform commands of spec 43_fft.md: `BITREV BSTAGE FFT`, their micro-op
lists, and the recursion they must equal bit for bit (R165, R176). -/

namespace Sys2Proof.Machine

/-! ### The function (R165) -/

/-- The even-indexed elements, in order (R165 step 3). -/
def evens : List Cplx → List Cplx
  | [] => []
  | [x] => [x]
  | x :: _ :: xs => x :: evens xs

/-- The odd-indexed elements, in order (R165 step 3). -/
def odds : List Cplx → List Cplx
  | [] => []
  | [_] => []
  | _ :: y :: xs => y :: odds xs

/-- The butterflies of one combination, from index `k` on (R165 step 5). -/
def butterflies (s : Nat) : Nat → List Cplx → List Cplx → List (Cplx × Cplx)
  | k, e :: es, o :: os => bfly e o (TW s k) :: butterflies s (k + 1) es os
  | _, _, _ => []

/-- `out[k]` for all `k`, then `out[k + n/2]` for all `k` (R165 step 5). -/
def combine (s : Nat) (ev od : List Cplx) : List Cplx :=
  (butterflies s 0 ev od).map Prod.fst ++ (butterflies s 0 ev od).map Prod.snd

/-- The recursion of R165, with a bound on its depth; `none` is the failure `InvalidLength` of step 2.
The empty sequence gives the empty result (R177). -/
def fftWithin : Nat → List Cplx → Option (List Cplx)
  | _, [] => some []
  | _, [x] => some [x]
  | 0, _ :: _ :: _ => none
  | d + 1, x :: y :: xs =>
    if (x :: y :: xs).length % 2 = 1 then none
    else
      match fftWithin d (evens (x :: y :: xs)), fftWithin d (odds (x :: y :: xs)) with
      | some ev, some od => some (combine (log2 (x :: y :: xs).length) ev od)
      | _, _ => none

/-- `fft(x)` (R165): the depth of the recursion never exceeds the length. -/
def fft (x : List Cplx) : Option (List Cplx) := fftWithin x.length x

/-! ### Micro-op lists (R167, R169) -/

/-- `reorder(NL)` (R167). -/
def reorder (nl : Nat) : List UOp :=
  (List.range nl).filterMap fun i =>
    if i < rev (log2 nl) i then some (.swap i (rev (log2 nl) i)) else none

/-- The micro-op of butterfly `i` of stage `s` (R169): block `g = i >> (s-1)`, index `k = i and (h-1)`,
upper entry `a = (g << s) + k`, lower entry `b = a + h`, with `h = 2^(s-1)`. -/
def stageUOp (s i : Nat) : UOp :=
  let h := 2 ^ (s - 1)
  let k := i % h
  let a := i / h * 2 ^ s + k
  .bflym a (a + h) s k

/-- `stage(s, NL)` (R169). -/
def stage (s nl : Nat) : List UOp := (List.range (nl / 2)).map (stageUOp s)

/-- `stage(1, NL) ++ ... ++ stage(p, NL)` (R172). -/
def stages (nl : Nat) : List UOp := (List.range (log2 nl)).flatMap fun j => stage (j + 1) nl

/-! ### The commands -/

/-- Issue checks of `BITREV` (R168, R219). -/
def checkBitrev (nmax : Nat) (nl : Word32) : Option FaultRecord := transformCheck nmax nl
/-- `expand` of `BITREV` (R168). -/
def expandBitrev (nl : Word32) : List UOp := reorder nl.toNat
/-- `BITREV` (R168). -/
def execBitrev (s : State) : Result :=
  command (encode .bitrev) (fun n _ => checkBitrev s.params.nmax n) (fun nl _ => expandBitrev nl) s

/-- Issue checks of `BSTAGE` (R171, R219): length, capacity, then `1 <= s <= log2(NL)`. -/
def checkBstage (nmax st : Nat) (nl : Word32) : Option FaultRecord :=
  (transformCheck nmax nl).or
    (operandCheck (stageInRange st (log2 nl.toNat)) (encode (.bstage st)))
/-- `expand` of `BSTAGE` (R171). -/
def expandBstage (st : Nat) (nl : Word32) : List UOp := stage st nl.toNat
/-- `BSTAGE s` (R171). -/
def execBstage (st : Nat) (s : State) : Result :=
  command (encode (.bstage st)) (fun n _ => checkBstage s.params.nmax st n)
    (fun nl _ => expandBstage st nl) s

/-- Issue checks of `FFT` (R172, R219). -/
def checkFft (nmax : Nat) (nl : Word32) : Option FaultRecord := transformCheck nmax nl
/-- `expand` of `FFT` (R172). -/
def expandFft (nl : Word32) : List UOp := reorder nl.toNat ++ stages nl.toNat
/-- `FFT` (R172). -/
def execFft (s : State) : Result :=
  command (encode .fft) (fun n _ => checkFft s.params.nmax n) (fun nl _ => expandFft nl) s

end Sys2Proof.Machine
end

