-- ==== Sys2Proof/Machine/Inverse.lean ====
section
/-! DEFINITION. The inverse transform commands of spec 44_ifft.md: `CONJV IPOST IFFT`, and the function
they realise (R185). -/

namespace Sys2Proof.Machine

/-- `ifft(X)` (R185): conjugate, `fft`, then conjugate and scale the real word by `1/n`. -/
def ifft (x : List Cplx) : Option (List Cplx) :=
  (fft (x.map cconj)).map fun y => y.map (post (log2 x.length))

/-- `[uCONJM i : i in 0 .. NL-1]` (R186). -/
def conjList (nl : Nat) : List UOp := (List.range nl).map .conjm

/-- `[uPOSTM i p : i in 0 .. NL-1]`, `p = log2(NL)` (R187). -/
def postList (nl : Nat) : List UOp := (List.range nl).map fun i => .postm i (log2 nl)

/-- Issue check of `CONJV` (R186, R219): capacity only. -/
def checkConjv (nmax : Nat) (nl : Word32) : Option FaultRecord := capacityCheck nmax nl
/-- `expand` of `CONJV` (R186). -/
def expandConjv (nl : Word32) : List UOp := conjList nl.toNat
/-- `CONJV` (R186). -/
def execConjv (s : State) : Result :=
  command (encode .conjv) (fun n _ => checkConjv s.params.nmax n) (fun nl _ => expandConjv nl) s

/-- Issue checks of `IPOST` (R187, R219). -/
def checkIpost (nmax : Nat) (nl : Word32) : Option FaultRecord := transformCheck nmax nl
/-- `expand` of `IPOST` (R187). -/
def expandIpost (nl : Word32) : List UOp := postList nl.toNat
/-- `IPOST` (R187). -/
def execIpost (s : State) : Result :=
  command (encode .ipost) (fun n _ => checkIpost s.params.nmax n) (fun nl _ => expandIpost nl) s

/-- Issue checks of `IFFT` (R190, R219). -/
def checkIfft (nmax : Nat) (nl : Word32) : Option FaultRecord := transformCheck nmax nl
/-- `expand` of `IFFT` (R190). -/
def expandIfft (nl : Word32) : List UOp :=
  conjList nl.toNat ++ (reorder nl.toNat ++ stages nl.toNat) ++ postList nl.toNat
/-- `IFFT` (R190). -/
def execIfft (s : State) : Result :=
  command (encode .ifft) (fun n _ => checkIfft s.params.nmax n) (fun nl _ => expandIfft nl) s

end Sys2Proof.Machine
end

