-- ==== Sys2Proof/Machine/LoadStore.lean ====
section
/-! DEFINITION. Register load and store and the no-operation (spec 46_load_store_system.md):
`CLD CST NOP`. -/

namespace Sys2Proof.Machine

/-- Issue check of `CLD` (R205, R219): `idx < NMAX`. -/
def checkCld (nmax : Nat) (rd : Reg) (idx : Nat) : Option FaultRecord :=
  operandCheck (decide (idx < nmax)) (encode (.cld rd idx))
/-- `expand` of `CLD` (R205). -/
def expandCld (rd : Reg) (idx : Nat) : List UOp := [.ld rd idx]
/-- `CLD cd, idx` (R205). -/
def execCld (rd : Reg) (idx : Nat) (s : State) : Result :=
  command (encode (.cld rd idx)) (fun _ _ => checkCld s.params.nmax rd idx)
    (fun _ _ => expandCld rd idx) s

/-- Issue check of `CST` (R206, R219): `idx < NMAX`. -/
def checkCst (nmax : Nat) (rd : Reg) (idx : Nat) : Option FaultRecord :=
  operandCheck (decide (idx < nmax)) (encode (.cst rd idx))
/-- `expand` of `CST` (R206). -/
def expandCst (rd : Reg) (idx : Nat) : List UOp := [.st rd idx]
/-- `CST cs, idx` (R206). -/
def execCst (rd : Reg) (idx : Nat) (s : State) : Result :=
  command (encode (.cst rd idx)) (fun _ _ => checkCst s.params.nmax rd idx)
    (fun _ _ => expandCst rd idx) s

/-- `expand` of `NOP` (R207). -/
def expandNop : List UOp := [.nop]
/-- `NOP` (R207). -/
def execNop (s : State) : Result :=
  command (encode .nop) (fun _ _ => none) (fun _ _ => expandNop) s

end Sys2Proof.Machine
end

