-- ==== Sys2Proof/Machine/Padding.lean ====
section
/-! DEFINITION. The padding commands of spec 45_padding.md: `NPOW2 ZPAD LIFT`. -/

namespace Sys2Proof.Machine

/-- `expand` of `NPOW2` (R195). -/
def expandNpow2 (ll : Word32) : List UOp := [.setn (npow2 ll)]
/-- `NPOW2` (R195): no check beyond decoding. -/
def execNpow2 (s : State) : Result :=
  command (encode .npow2) (fun _ _ => none) (fun _ ll => expandNpow2 ll) s

/-- Issue checks of `ZPAD` (R197, R219): capacity, then `0 <= LL <= NL`, whose `ERRINFO` is the pattern of
`LEN`. -/
def checkZpad (nmax : Nat) (nl ll : Word32) : Option FaultRecord :=
  (capacityCheck nmax nl).or (operandCheck (padFits nl ll) ll)
/-- `expand` of `ZPAD` (R197): `[uZERO i : i in LL .. NL-1]`. -/
def expandZpad (nl ll : Word32) : List UOp :=
  (List.range (nl.toNat - ll.toInt.toNat)).map fun j => .zero (ll.toInt.toNat + j)
/-- `ZPAD` (R197). -/
def execZpad (s : State) : Result :=
  command (encode .zpad) (fun n l => checkZpad s.params.nmax n l) (fun nl ll => expandZpad nl ll) s

/-- Issue check of `LIFT` (R198, R219): capacity only. -/
def checkLift (nmax : Nat) (nl : Word32) : Option FaultRecord := capacityCheck nmax nl
/-- `expand` of `LIFT` (R198). -/
def expandLift (nl : Word32) : List UOp := (List.range nl.toNat).map .lift
/-- `LIFT` (R198). -/
def execLift (s : State) : Result :=
  command (encode .lift) (fun n _ => checkLift s.params.nmax n) (fun nl _ => expandLift nl) s

end Sys2Proof.Machine
end

