-- ==== Sys2Proof/Machine/Dispatch.lean ====
section
/-! DEFINITION. One arm per command: the meaning of each, in the state it finds the block in. -/

namespace Sys2Proof.Machine

def exec (i : Instr) (s : State) : Host.Outcome State Fault Refusal :=
  match i with
  | .nop => Sys2Proof.Machine.execNop s
  | .cadd rd ra rb => Sys2Proof.Machine.execCadd rd ra rb s
  | .csub rd ra rb => Sys2Proof.Machine.execCsub rd ra rb s
  | .cmul rd ra rb => Sys2Proof.Machine.execCmul rd ra rb s
  | .cconj rd ra => Sys2Proof.Machine.execCconj rd ra s
  | .cpolar rd ra => Sys2Proof.Machine.execCpolar rd ra s
  | .twid rd st k => Sys2Proof.Machine.execTwid rd st k s
  | .bfly rd ra rb => Sys2Proof.Machine.execBfly rd ra rb s
  | .cld rd idx => Sys2Proof.Machine.execCld rd idx s
  | .cst rd idx => Sys2Proof.Machine.execCst rd idx s
  | .bitrev => Sys2Proof.Machine.execBitrev s
  | .bstage st => Sys2Proof.Machine.execBstage st s
  | .fft => Sys2Proof.Machine.execFft s
  | .conjv => Sys2Proof.Machine.execConjv s
  | .ipost => Sys2Proof.Machine.execIpost s
  | .ifft => Sys2Proof.Machine.execIfft s
  | .npow2 => Sys2Proof.Machine.execNpow2 s
  | .zpad => Sys2Proof.Machine.execZpad s
  | .lift => Sys2Proof.Machine.execLift s

end Sys2Proof.Machine
end

