-- ==== Sys2Proof/Machine/Flags.lean ====
section
/-! DEFINITION. The status bits as the host reads them, the control bits as it writes them, and the
interrupt output (spec 10_state.md R29 to R41, R46; 60_exceptions.md R228).  There are no other flags:
no command records overflow, underflow, inexact, invalid or division by zero (R29, R119). -/

namespace Sys2Proof.Machine

/-- `ID`: ASCII "FFT1" (R31). -/
def idWord : Word32 := 0x46465431

/-- `CAP`: `LMAX` in bits 4:0, bits 31:5 zero (R32). -/
def capWord (s : State) : Word32 := BitVec.ofNat 32 s.params.lmax

/-- `STATUS`: bit 0 `BUSY`, bit 1 `DONE`, bit 2 `ERR`, bit 3 zero, bits 7:4 `CAUSE`, bits 31:8 zero (R33). -/
def statusWord (s : State) : Word32 :=
  0#24 ++ s.cause ++ 0#1 ++ BitVec.ofBool s.err ++ BitVec.ofBool s.done ++ BitVec.ofBool s.busy

/-- `CTRL`: bit 0 `IE`; `CLR` and bits 31:2 read zero (R34). -/
def ctrlWord (s : State) : Word32 := 0#31 ++ BitVec.ofBool s.ie

/-- The value a `CsrRead(x)` returns (R30 to R41, R63). -/
def csrValue (x : Fin 16) (s : State) : Word32 :=
  match x.val with
  | 0 => idWord
  | 1 => capWord s
  | 2 => statusWord s
  | 3 => ctrlWord s
  | 4 => s.n
  | 5 => s.len
  | 6 => s.errinfo
  | 7 => s.pos
  | 8 => s.cmdw
  | _ => 0

/-- A write of `CTRL` (R34): bit 0 sets `IE`, a one in bit 1 clears the record, the rest is discarded. -/
def writeCtrl (v : Word32) (s : State) : State :=
  let cleared := if v.getLsbD 1 then clearRecord s else s
  { cleared with ie := v.getLsbD 0 }

/-- The level output `irq = CTRL.IE and (STATUS.DONE or STATUS.ERR)` (R46, R228). -/
def irq (s : State) : Bool := s.ie && (s.done || s.err)

end Sys2Proof.Machine
end

