-- ==== Sys2Proof/Machine/HostPort.lean ====
section
/-! DEFINITION. The host's side of the block: the four transactions, what holds them, the byte-addressed
bridge, and reset (spec 20_memory.md R62 to R73, 60_exceptions.md R218, 10_state.md R47). -/

namespace Sys2Proof.Machine

/-! ### The byte-addressed bridge (R71, R72) -/

/-- The little-endian number of a list of bytes, the lowest address first (R71). -/
def bytesToNat : List (BitVec 8) → Nat
  | [] => 0
  | b :: bs => b.toNat + 2 ^ 8 * bytesToNat bs

/-- The `k` bytes of a number, the lowest address first (R71). -/
def natToBytes : Nat → Nat → List (BitVec 8)
  | 0, _ => []
  | k + 1, v => BitVec.ofNat 8 v :: natToBytes k (v / 2 ^ 8)

/-- The control register at a byte offset: a naturally aligned 4-byte access inside the space (R71, R72). -/
def csrAtOffset (offset width : Nat) : Option (Fin 16) :=
  if width = 4 ∧ offset % 4 = 0 ∧ offset / 4 < 16 then some (Fin.ofNat 16 (offset / 4)) else none

/-- The data word at a byte offset: a naturally aligned 8-byte access (R71, R72). -/
def wordAtOffset (offset width : Nat) : Option Nat :=
  if width = 8 ∧ offset % 8 = 0 then some (offset / 8) else none

/-- The transaction a request is; `none` when the bridge refuses it (R72). -/
def requestTxn : Request → Option HostTxn
  | .direct t => some t
  | .busRead .csr offset width => (csrAtOffset offset width).map .csrRead
  | .busRead .dmem offset width => (wordAtOffset offset width).map .memRead
  | .busWrite .csr offset bytes =>
    (csrAtOffset offset bytes.length).map fun x => .csrWrite x (BitVec.ofNat 32 (bytesToNat bytes))
  | .busWrite .dmem offset bytes =>
    (wordAtOffset offset bytes.length).map fun j => .memWrite j (BitVec.ofNat 64 (bytesToNat bytes))

/-- A response as the requester sees it: through the bridge, data are bytes (R71). -/
def deliver (q : Request) (r : Response) : Response :=
  match q, r with
  | .direct _, r => r
  | _, .word32 v => .bytes (natToBytes 4 v.toNat)
  | _, .word64 v => .bytes (natToBytes 8 v.toNat)
  | _, r => r

/-! ### Transactions (R63 to R67, R70) -/

/-- The transaction is held: `BUSY = 1` and it could change, or would read, what the command in flight
works on (R64, R66, R67, R70). -/
def isHeld (t : HostTxn) (s : State) : Bool :=
  s.busy &&
    match t with
    | .csrRead _ => false
    | .csrWrite x _ => x.val == 4 || x.val == 5 || x.val == 8
    | .memRead j => decide (j < s.wordCount)
    | .memWrite j _ => decide (j < s.wordCount)

/-- `CsrWrite(8, w)` from `BUSY = 0` (R218): discarded while `ERR = 1`; a word that does not decode raises
`IllegalCommand`; otherwise the command is issued. -/
def issueWord (w : Word32) (s : State) : Result :=
  if s.err then .next s
  else
    match decode w with
    | .error _ => .next (raiseFault .illegalCommand w s)
    | .ok i => exec i s

/-- `CsrWrite(x, v)` when it is not held (R64). -/
def csrWrite (x : Fin 16) (v : Word32) (s : State) : Result :=
  match x.val with
  | 3 => .next (writeCtrl v s)
  | 4 => .next { s with n := v }
  | 5 => .next { s with len := v }
  | 8 => issueWord v s
  | _ => .next s

/-- Record a response (R65). -/
def respond (r : Response) (s : State) : State := { s with responses := s.responses ++ [r] }

/-- Record a response to what went on to a next state. -/
def respondTo (r : Response) (o : Result) : Result :=
  match o with
  | .next s => .next (respond r s)
  | .fault f => .fault f
  | .refused f => .refused f

/-- A transaction that is not held, performed for the request `q` (R63 to R67). -/
def completeTxn (q : Request) (t : HostTxn) (s : State) : Result :=
  match t with
  | .csrRead x => .next (respond (deliver q (.word32 (csrValue x s))) s)
  | .csrWrite x v => respondTo (deliver q .ok) (csrWrite x v s)
  | .memRead j =>
    if j < s.wordCount then
      if s.params.unwritten = .refuse ∧ s.mem.lookup j = none then .refused .unwrittenRead
      else .next (respond (deliver q (.word64 (readWord j s).1)) (readWord j s).2)
    else .next (respond .busError s)
  | .memWrite j v =>
    if j < s.wordCount then .next (respond (deliver q .ok) (writeWord j v s))
    else .next (respond .busError s)

/-- The host tries the request `q`, the lines `rest` being what remains of its script: it is refused by
the bridge, held, or performed (R65, R72). -/
def attempt (q : Request) (rest : List ScriptLine) (s : State) : Result :=
  match requestTxn q with
  | none => .next (respond .busError { s with held := none, script := rest })
  | some t =>
    if isHeld t s then .next { s with held := some q, script := rest }
    else completeTxn q t { s with held := none, script := rest }

/-- The host's step: its held request if there is one, since that blocks it (R65); else the next line of
its script; a host with nothing to do does nothing. -/
def hostTurn (s : State) : Result :=
  match s.held with
  | some q => attempt q s.script s
  | none =>
    match s.script with
    | [] => .next s
    | .request q :: rest => attempt q rest s
    | .wait :: rest =>
      .next (respond (.word32 (statusWord s))
        { s with script := if s.busy then .wait :: rest else rest })

/-- The sequencer's step (R27): enabled exactly when `BUSY = 1`, and then a step of the command in `CMDW`. -/
def sequencerTurn (s : State) : Result :=
  if s.busy then
    match decode s.cmdw with
    | .ok i => exec i s
    | .error _ => .fault .latchUndecodable
  else .next s

/-- `Reset` (R47, R250): every piece of the block's state takes its reset value, the parameters and the
count of draws stay, and a request that was held has no effect on the block. -/
def resetBlock (s : State) : State :=
  { State.reset with
    params := s.params
    draws := s.draws
    script := s.script
    schedule := s.schedule
    responses := if s.held.isSome then s.responses ++ [.lostAtReset] else s.responses }

/-- Who moves: the head of the schedule; past its end, the sequencer while it is enabled, else the host
(R75). -/
def mover (s : State) : Agent :=
  match s.schedule with
  | a :: _ => a
  | [] => if s.busy then .sequencer else .host

/-- The mover's choice is used up. -/
def popSchedule (s : State) : State := { s with schedule := s.schedule.tail }

/-- One step of the block and its host: exactly one agent moves (R13, R75). -/
def blockStep (s : State) : Result :=
  match mover s with
  | .host => hostTurn (popSchedule s)
  | .sequencer => sequencerTurn (popSchedule s)
  | .reset => .next (resetBlock (popSchedule s))

/-- `s` with the host about to write the command word `w` to `CMD`, an idle block with no fault recorded,
and the host to move: the very next step issues `w`. -/
def placeCommand (w : Word32) (s : State) : State :=
  { s with
    busy := false
    err := false
    cause := 0
    errinfo := 0
    held := none
    script := .request (.direct (.csrWrite 8 w)) :: s.script
    schedule := .host :: s.schedule }

end Sys2Proof.Machine
end

