-- ==== Sys2Proof/Machine/Step.lean ====
section
/-! DEFINITION. The step of the machine, and the placing of a command where the next step issues it. -/

namespace Sys2Proof.Machine

/-- One step: one move of the host, of the sequencer, or a reset (spec 00_scope.md R13, 20_memory.md R75). -/
def step (s : State) : Host.Outcome State Fault Refusal := Sys2Proof.Machine.blockStep s

/-- `s` with a command word of `nbits` bits placed as the data of the host's next `CsrWrite(CMD, ..)`
(spec 20_memory.md R80: "A command word exists only as the data of one `CsrWrite(CMD, ..)`"). -/
def State.withFetchWord (s : State) (nbits w : Nat) : State :=
  Sys2Proof.Machine.placeCommand (wordOfTable nbits w) s

end Sys2Proof.Machine
end

