-- ==== Sys2Proof/Machine/Expand.lean ====
section
/-! DEFINITION. `expand` and the issue checks as functions of the command (spec 10_state.md R25,
60_exceptions.md R219), gathered from the families. -/

namespace Sys2Proof.Machine

/-- `expand`: the micro-op list of a command with latched lengths `NL` and `LL` (R25). -/
def expand (i : Instr) (nl ll : Word32) : List UOp :=
  match i with
  | .nop => expandNop
  | .cadd rd ra rb => expandCadd rd ra rb
  | .csub rd ra rb => expandCsub rd ra rb
  | .cmul rd ra rb => expandCmul rd ra rb
  | .cconj rd ra => expandCconj rd ra
  | .cpolar rd ra => expandCpolar rd ra
  | .twid rd st k => expandTwid rd st k
  | .bfly rd ra rb => expandBfly rd ra rb
  | .cld rd idx => expandCld rd idx
  | .cst rd idx => expandCst rd idx
  | .bitrev => expandBitrev nl
  | .bstage st => expandBstage st nl
  | .fft => expandFft nl
  | .conjv => expandConjv nl
  | .ipost => expandIpost nl
  | .ifft => expandIfft nl
  | .npow2 => expandNpow2 ll
  | .zpad => expandZpad nl ll
  | .lift => expandLift nl

/-- The issue checks of a command on the parameters and the two lengths (R219): the first that fails. -/
def issueCheck (p : Config.Params) (i : Instr) (nl ll : Word32) : Option FaultRecord :=
  match i with
  | .nop => none
  | .cadd _ _ _ => none
  | .csub _ _ _ => none
  | .cmul _ _ _ => none
  | .cconj _ _ => none
  | .cpolar _ _ => none
  | .twid rd st k => checkTwid p.lmax rd st k
  | .bfly rd ra rb => checkBfly rd ra rb
  | .cld rd idx => checkCld p.nmax rd idx
  | .cst rd idx => checkCst p.nmax rd idx
  | .bitrev => checkBitrev p.nmax nl
  | .bstage st => checkBstage p.nmax st nl
  | .fft => checkFft p.nmax nl
  | .conjv => checkConjv p.nmax nl
  | .ipost => checkIpost p.nmax nl
  | .ifft => checkIfft p.nmax nl
  | .npow2 => none
  | .zpad => checkZpad p.nmax nl ll
  | .lift => checkLift p.nmax nl

end Sys2Proof.Machine
end

