-- ==== Sys2Proof/Safety.lean ====
section
/-! DEFINITION. What counts as a safe run, and the words the statements are made of: an idle block, what
a read may answer, the whole life of a command, and the invariant of every run (spec 10_state.md R59). -/

namespace Sys2Proof.Safety

open Sys2Proof.Machine

/-- The block is idle and no fault is recorded: a command written now is decoded and checked (R218). -/
def Idle (s : State) : Prop := s.busy = false ∧ s.err = false

/-! ### What a read may answer (R57) -/

/-- `v` is an answer to a read of `W[j]`: the word written there if there is one, else anything. -/
def WordReads (s : State) (j : Nat) (v : F64) : Prop := ∀ w, s.mem.lookup j = some w → v = w

/-- `x` is an answer to a read of `D[i]`. -/
def EntryReads (s : State) (i : Nat) (x : Cplx) : Prop :=
  WordReads s (2 * i) x.re ∧ WordReads s (2 * i + 1) x.im

/-- `x` is an answer to a read of `C[r]`: its value if something has written it, else anything. -/
def RegReads (s : State) (r : Reg) (x : Cplx) : Prop :=
  s.cregs[r].written = true → x = s.cregs[r].value

/-- The part lets these registers be read: any, or, under `UNWRITTEN = refuse`, the written ones. -/
def RegsReadable (s : State) (rs : List Reg) : Prop :=
  s.params.unwritten = .anyValue ∨ ∀ r ∈ rs, s.cregs[r].written = true

/-- Both words of `D[i]` have been written since reset, and they are those of `x`. -/
def EntryIs (s : State) (i : Nat) (x : Cplx) : Prop :=
  s.mem.lookup (2 * i) = some x.re ∧ s.mem.lookup (2 * i + 1) = some x.im

/-- Both words of `D[i]` have been written since reset. -/
def EntryWritten (s : State) (i : Nat) : Prop := ∃ x, EntryIs s i x

/-- The part lets these entries be read. -/
def EntriesReadable (s : State) (is : List Nat) : Prop :=
  s.params.unwritten = .anyValue ∨ ∀ i ∈ is, EntryWritten s i

/-- Entries `0 .. n-1` hold the elements of `x`, in order (R61). -/
def Holds (s : State) (x : List Cplx) : Prop := ∀ i (h : i < x.length), EntryIs s i x[i]

/-- Every word of `t` from index `j` on reads as in `s`. -/
def SameFrom (j : Nat) (s t : State) : Prop := ∀ a, j ≤ a → t.mem.lookup a = s.mem.lookup a

/-! ### The life of a command (R27, R218) -/

/-- `k` steps of the command `i`, stopping at the first fault or refusal. -/
def execTimes (i : Instr) : Nat → State → Result
  | 0, s => .next s
  | k + 1, s =>
    match exec i s with
    | .next t => execTimes i k t
    | .fault f => .fault f
    | .refused f => .refused f

/-- The whole life of a command from an idle block: its issue, its micro-ops, its retire step. -/
def wholeCommand (i : Instr) (s : State) : Result :=
  execTimes i ((expand i s.n s.len).length + 2) s

/-- The block of `s` once the command of word `w` is accepted and `k` of its micro-ops are counted, over
the state `s` otherwise (R42, R218). -/
def inFlight (w : Word32) (k : Nat) (s : State) : State :=
  { s with cmdw := w, nl := s.n, ll := s.len, pos := BitVec.ofNat 32 k, busy := true, done := false }

/-- What a command of word `w` and `k` micro-ops leaves in the sequencer's registers and the status once
it has retired, over the state `s` otherwise (R27, R42, R218). -/
def finished (w : Word32) (k : Nat) (s : State) : State :=
  { s with cmdw := w, nl := s.n, ll := s.len, pos := BitVec.ofNat 32 k, busy := false, done := true }

/-- What a refused command leaves: the fault record, and everything else as in `s` (R216, R222). -/
def faulted (code : BitVec 4) (info : Word32) (s : State) : State :=
  { s with err := true, done := false, cause := code, errinfo := info }

/-- `N` is a length a transform accepts: zero or a power of two (R138, R219). -/
def TransformLength (nl : Word32) : Prop := nl = 0 ∨ ∃ p, nl.toNat = 2 ^ p

/-- The same answer about a state with another register file: what a step does to `s`, when it neither
reads nor writes a register. -/
def withRegs (c : Vector CReg 8) : Result → Result
  | .next t => .next { t with cregs := c }
  | .fault f => .fault f
  | .refused r => .refused r

/-- `D[i]` reads in `t` as it does in `s`, word by word. -/
def SameEntry (s t : State) (i : Nat) : Prop :=
  t.mem.lookup (2 * i) = s.mem.lookup (2 * i) ∧ t.mem.lookup (2 * i + 1) = s.mem.lookup (2 * i + 1)

/-- The word `j` is one of those a command with latched lengths `nl`, `ll` may write (R82). -/
def MayWriteWord (i : Instr) (nl ll : Word32) (j : Nat) : Prop :=
  match i with
  | .nop => False
  | .cadd _ _ _ => False
  | .csub _ _ _ => False
  | .cmul _ _ _ => False
  | .cconj _ _ => False
  | .cpolar _ _ => False
  | .twid _ _ _ => False
  | .bfly _ _ _ => False
  | .cld _ _ => False
  | .cst _ idx => j = 2 * idx ∨ j = 2 * idx + 1
  | .bitrev => j < 2 * nl.toNat
  | .bstage _ => j < 2 * nl.toNat
  | .fft => j < 2 * nl.toNat
  | .conjv => j < 2 * nl.toNat
  | .ipost => j < 2 * nl.toNat
  | .ifft => j < 2 * nl.toNat
  | .npow2 => False
  | .zpad => 2 * ll.toInt.toNat ≤ j ∧ j < 2 * nl.toNat
  | .lift => j < 2 * nl.toNat ∧ j % 2 = 1

/-- The commands that name no register: the vector commands, `NPOW2` and `NOP` (R23). -/
def NamesNoRegister (i : Instr) : Prop :=
  i = .bitrev ∨ (∃ st, i = .bstage st) ∨ i = .fft ∨ i = .conjv ∨ i = .ipost ∨ i = .ifft ∨
    i = .zpad ∨ i = .lift ∨ i = .npow2 ∨ i = .nop

/-! ### The host's moves (R62 to R65) -/

/-- The host moves next and tries the request `q`, new or held; `rest` is then what remains of its script. -/
def HostTries (s : State) (q : Request) (rest : List ScriptLine) : Prop :=
  mover s = .host ∧
    ((s.held = some q ∧ s.script = rest) ∨ (s.held = none ∧ s.script = .request q :: rest))

/-- `s` after the host's request has completed with the response `r`, the block untouched. -/
def answered (s : State) (rest : List ScriptLine) (r : Response) : State :=
  { s with
    held := none
    script := rest
    schedule := s.schedule.tail
    responses := s.responses ++ [r] }

/-- `s` after the host's request `q` has been held, the block untouched (R65). -/
def stillHeld (s : State) (q : Request) (rest : List ScriptLine) : State :=
  { s with held := some q, script := rest, schedule := s.schedule.tail }

/-! ### The invariant of every run (R59, R81) -/

/-- `CMDW` is a command whose checks passed on the latched lengths, and `pos` is within its list. -/
def CommandInFlight (s : State) : Prop :=
  match decode s.cmdw with
  | .ok i => issueCheck s.params i s.nl s.ll = none ∧ s.pos.toNat ≤ (expand i s.nl s.ll).length
  | .error _ => False

/-- The invariant: R59's four implications, and that memory is in canonical form. -/
structure Inv (s : State) : Prop where
  memory : s.mem.wf s.wordCount
  busyClean : s.busy = true → s.done = false ∧ s.err = false
  errRecorded : s.err = true → s.done = false ∧ 1 ≤ s.cause.toNat ∧ s.cause.toNat ≤ 4
  errFree : s.err = false → s.cause = 0 ∧ s.errinfo = 0
  inFlight : s.busy = true → CommandInFlight s

end Sys2Proof.Safety
end

