-- ==== Sys2Proof/Certificates/Slice0/Obligations.lean ====
section
/-! DEFINITION. The statements about FFTCORE that the provers settle.  Each docstring names the rules of
spec/ it formalises.  A word that nothing has written since reset reads as a free value (R57,
notes/assumptions/3.md): every statement below holds whatever the free values are.  `draws` is the
model's own count of them: only `ReadsOfUnwrittenWords` says what it becomes after a read of such a
word, and only `VectorCommandsIgnoreRegisters` compares what two runs draw. -/

section Statements

open Sys2Proof Sys2Proof.Machine Sys2Proof.Safety

/-! ### Encoding -/

/-- The six words of R104, each read from the spec, decode to the commands they stand for and are what the
encoder writes. -/
def Obligations.SpecWordsDecode : Prop :=
  (decode 0x29020000 = .ok (.cmul 2 0 1) ∧ encode (.cmul 2 0 1) = 0x29020000) ∧
  (decode 0x2DB00000 = .ok (.cconj 3 3) ∧ encode (.cconj 3 3) = 0x2DB00000) ∧
  (decode 0x420C0001 = .ok (.twid 4 3 1) ∧ encode (.twid 4 3 1) = 0x420C0001) ∧
  (decode 0x60800005 = .ok (.cld 1 5) ∧ encode (.cld 1 5) = 0x60800005) ∧
  (decode 0x84080000 = .ok (.bstage 2) ∧ encode (.bstage 2) = 0x84080000) ∧
  (decode 0x88000000 = .ok .fft ∧ encode .fft = 0x88000000)

/-- Every command whose operands fit their fields decodes from its own word, with every operand at every
value the encoding admits (R86, R87, R94 to R96). -/
def Obligations.EncodeThenDecode : Prop :=
  ∀ i : Instr, i.wellFormed = true → decode (encode i) = .ok i

/-- A word that decodes is the one word of its command, and its operands fit their fields: no bit of a
command word is ignored (R96, R98, R99). -/
def Obligations.DecodedWordIsCanonical : Prop :=
  ∀ (w : Word32) (i : Instr), decode w = .ok i → i.wellFormed = true ∧ encode i = w

/-- R97: the 45 reserved opcodes are illegal, and issuing such a word to an idle block raises
`IllegalCommand` with the word recorded; in particular the all-zero and the all-one word. -/
def Obligations.ReservedOpcodesAreIllegal : Prop :=
  (∀ w : Word32,
    (fieldOpcode w = 0 ∨ (2 ≤ fieldOpcode w ∧ fieldOpcode w ≤ 7) ∨
      (0x0D ≤ fieldOpcode w ∧ fieldOpcode w ≤ 0x0F) ∨ (0x12 ≤ fieldOpcode w ∧ fieldOpcode w ≤ 0x17) ∨
      (0x1A ≤ fieldOpcode w ∧ fieldOpcode w ≤ 0x1F) ∨ fieldOpcode w = 0x26 ∨ fieldOpcode w = 0x27 ∨
      0x2B ≤ fieldOpcode w) ↔ decode w = .error .reservedOpcode) ∧
  (∀ (w : Word32) (s : State), Idle s → decode w = .error .reservedOpcode →
    csrWrite 8 w s = .next (faulted 1 w s)) ∧
  ((List.range 64).filter
    (fun op => decide (decode (BitVec.ofNat 32 (op * 2 ^ 26)) = .error .reservedOpcode))).length = 45 ∧
  decode 0x00000000 = .error .reservedOpcode ∧ decode 0xFFFFFFFF = .error .reservedOpcode

/-- R98: a word with the opcode of a command and a must-be-zero bit of its format set is illegal, and
issuing it to an idle block raises `IllegalCommand` with the word recorded. -/
def Obligations.MustBeZeroBitsAreIllegal : Prop :=
  ∀ (w : Word32) (i : Instr), fieldOpcode w = i.opcode →
    w &&& i.format.mask ≠ BitVec.ofNat 32 (i.opcode * 2 ^ 26) →
    decode w = .error .mustBeZero ∧
    ∀ s : State, Idle s → csrWrite 8 w s = .next (faulted 1 w s)

/-! ### Binary64 arithmetic -/

/-- R110: `round64` of every number `r * 2^-(1074+t)` is the nearest word, ties to the even fraction, with
the infinities from `2^1024 - 2^970` on and the zeros up to `2^-1075`. -/
def Obligations.RoundingIsNearestTiesToEven : Prop :=
  ∀ (r : Int) (t : Nat) (sz : Bool),
    RoundsTo ((r : ℝ) / 2 ^ (unitExp + t)) sz (round64 r t sz) ∧
    (isInf (round64 r t sz) = true ↔ (2 ^ 1024 - 2 ^ 970) * 2 ^ (unitExp + t) ≤ r.natAbs) ∧
    (isZero (round64 r t sz) = true ↔ 2 * r.natAbs ≤ 2 ^ t)

/-- R113: `fadd`, row by row of its table, and that a sum below the normal range is exact. -/
def Obligations.AdditionFollowsItsTable : Prop :=
  (∀ a b, isNaN a = true ∨ isNaN b = true → fadd a b = CNAN) ∧
  (∀ sa, fadd (infOf sa) (infOf (!sa)) = CNAN) ∧
  (∀ a b, isInf a = true → isNaN b = false → (isInf b = true → signBit b = signBit a) → fadd a b = a) ∧
  (∀ a b, isInf b = true → isNaN a = false → (isInf a = true → signBit a = signBit b) → fadd a b = b) ∧
  (∀ sa sb, fadd (zeroOf sa) (zeroOf sb) = if sa = sb then zeroOf sa else PZERO) ∧
  (∀ a b, isFinite a = true → isFinite b = true → isZero a = false → val a + val b = 0 →
    fadd a b = PZERO) ∧
  (∀ a b, isFinite a = true → isFinite b = true → val a + val b ≠ 0 →
    RoundsTo ((val a + val b : ℚ) : ℝ) false (fadd a b)) ∧
  (∀ a b, isFinite a = true → isFinite b = true → |val a + val b| < 1 / 2 ^ 1022 →
    val (fadd a b) = val a + val b)

/-- R115: `fsub` is `fadd` of the negation, for all operands, and what that makes of NaNs, infinities,
zeros, equal operands and the rest; it does not commute. -/
def Obligations.SubtractionAddsTheNegation : Prop :=
  (∀ a b, fsub a b = fadd a (fneg b)) ∧
  (∀ a b, isNaN a = true ∨ isNaN b = true → fsub a b = CNAN) ∧
  (∀ sa, fsub (infOf sa) (infOf sa) = CNAN) ∧
  (∀ a b, isInf a = true → isNaN b = false → (isInf b = true → signBit b ≠ signBit a) → fsub a b = a) ∧
  (∀ a sb, isFinite a = true → fsub a (infOf sb) = infOf (!sb)) ∧
  (fsub PZERO PZERO = PZERO ∧ fsub NZERO NZERO = PZERO ∧ fsub PZERO NZERO = PZERO ∧
    fsub NZERO PZERO = NZERO) ∧
  (∀ x, isFinite x = true → fsub x x = PZERO) ∧
  (∀ a b, isFinite a = true → isFinite b = true → val a - val b ≠ 0 →
    RoundsTo ((val a - val b : ℚ) : ℝ) false (fsub a b)) ∧
  (∃ a b, fsub a b ≠ fsub b a)

/-- R117 and R118: `fmul`, row by row of its table; it commutes bit for bit; multiplying by `1.0` is exact
and by `-1.0` is `fneg`, but for NaNs. -/
def Obligations.MultiplicationFollowsItsTable : Prop :=
  (∀ a b, isNaN a = true ∨ isNaN b = true → fmul a b = CNAN) ∧
  (∀ a b, isZero a = true → isInf b = true → fmul a b = CNAN ∧ fmul b a = CNAN) ∧
  (∀ a b, isInf a = true → isNaN b = false → isZero b = false →
    fmul a b = infOf (signBit a != signBit b) ∧ fmul b a = infOf (signBit a != signBit b)) ∧
  (∀ a b, isZero a = true → isFinite b = true →
    fmul a b = zeroOf (signBit a != signBit b) ∧ fmul b a = zeroOf (signBit a != signBit b)) ∧
  (∀ a b, isFinite a = true → isFinite b = true → isZero a = false → isZero b = false →
    RoundsTo ((val a * val b : ℚ) : ℝ) (signBit a != signBit b) (fmul a b) ∧
    signBit (fmul a b) = (signBit a != signBit b)) ∧
  (∀ a b, fmul a b = fmul b a) ∧
  (∀ x, isNaN x = false →
    fmul x 0x3FF0000000000000 = x ∧ fmul x 0xBFF0000000000000 = fneg x) ∧
  (∀ x, isNaN x = true → fmul x 0x3FF0000000000000 = CNAN)

/-- R125: `fadd` commutes bit for bit; neither `fadd` nor `fmul` associates, and `fmul` does not
distribute over `fadd`. -/
def Obligations.AdditionCommutesButDoesNotAssociate : Prop :=
  (∀ a b, fadd a b = fadd b a) ∧
  (∃ a b c, fadd (fadd a b) c ≠ fadd a (fadd b c)) ∧
  (∃ a b c, fmul (fmul a b) c ≠ fmul a (fmul b c)) ∧
  (∃ a b c, fmul a (fadd b c) ≠ fadd (fmul a b) (fmul a c))

/-- R123: for the scale factors of the block, multiplying by `pow2(-p)` rounds the quotient by `2^p`, and
is exact unless the result is subnormal. -/
def Obligations.ScalingByPowersOfTwoIsDivision : Prop :=
  ∀ (x : F64) (p : Nat), isFinite x = true → p ≤ 16 →
    RoundsTo ((val x / 2 ^ p : ℚ) : ℝ) (signBit x) (fmul x (pow2 (-(p : Int)))) ∧
    (2 ^ p / 2 ^ 1022 ≤ |val x| → val (fmul x (pow2 (-(p : Int)))) = val x / 2 ^ p)

/-! ### Integer laws -/

/-- R137: `rev` as a sum over bits; an involution on `0 .. 2^p-1`, hence a permutation of it; its two
recursion equations; and the tables for `p` up to 4. -/
def Obligations.BitReversalLaws : Prop :=
  (∀ p i, p ≤ 16 → i < 2 ^ p →
    rev p i = ((List.range p).map fun j => i / 2 ^ j % 2 * 2 ^ (p - 1 - j)).sum ∧
    rev p i < 2 ^ p ∧ rev p (rev p i) = i) ∧
  (∀ p, p ≤ 16 → ((List.range (2 ^ p)).map (rev p)).Perm (List.range (2 ^ p))) ∧
  (∀ p i, 1 ≤ p → p ≤ 16 → i < 2 ^ (p - 1) →
    rev p (2 * i) = rev (p - 1) i ∧ rev p (2 * i + 1) = 2 ^ (p - 1) + rev (p - 1) i) ∧
  rev 0 0 = 0 ∧
  (List.range 2).map (rev 1) = [0, 1] ∧ (List.range 4).map (rev 2) = [0, 2, 1, 3] ∧
  (List.range 8).map (rev 3) = [0, 4, 2, 6, 1, 5, 3, 7] ∧
  (List.range 16).map (rev 4) = [0, 8, 4, 12, 2, 10, 6, 14, 1, 9, 5, 13, 3, 11, 7, 15]

/-- R138: `ispow2` says that one bit is set and `log2` is its index, with `log2(0) = 0`; and the
recursion of R165 is defined on exactly the non-empty sequences of such a length. -/
def Obligations.PowersOfTwoAreTheTransformLengths : Prop :=
  (∀ n : Nat, ispow2 n = true ↔ ∃ p, n = 2 ^ p) ∧ (∀ p : Nat, log2 (2 ^ p) = p) ∧ log2 0 = 0 ∧
  (∀ x : List Cplx, x ≠ [] → ((fft x).isSome = true ↔ ispow2 x.length = true))

/-- R139: `npow2` is 1 for lengths up to 1, and otherwise the smallest power of two that is at least the
length; its corners are those of the rule. -/
def Obligations.NextPowerOfTwo : Prop :=
  (∀ l : Word32, l.toInt ≤ 1 → npow2 l = 1) ∧
  (∀ l : Word32, 1 < l.toInt →
    ∃ p, p ≤ 31 ∧ (npow2 l).toNat = 2 ^ p ∧ l.toInt ≤ 2 ^ p ∧
      ∀ q, l.toInt ≤ (2 : Int) ^ q → 2 ^ p ≤ 2 ^ q) ∧
  npow2 0x80000000 = 1 ∧ npow2 0xFFFFFFFF = 1 ∧ npow2 0 = 1 ∧ npow2 1 = 1 ∧ npow2 2 = 2 ∧
  npow2 3 = 4 ∧ npow2 4 = 4 ∧ npow2 5 = 8 ∧ npow2 0x40000000 = 0x40000000 ∧
  npow2 0x40000001 = 0x80000000 ∧ npow2 0x7FFFFFFF = 0x80000000

/-! ### Complex functions, twiddle factors, the butterfly -/

/-- R120 and R140 to R143: negation flips bit 63 and no other; the complex functions on their
components; `cadd` and `cmul` commute, `csub x x` is `(+0, +0)` on finite components, `cconj` undoes
itself. -/
def Obligations.ComplexFunctions : Prop :=
  (∀ x : F64, fneg x = x ^^^ 0x8000000000000000 ∧ (fneg x).getLsbD 63 = !x.getLsbD 63 ∧
    ∀ j < 63, (fneg x).getLsbD j = x.getLsbD j) ∧
  fneg PZERO = NZERO ∧ fsub PZERO PZERO = PZERO ∧
  (∀ x y, cadd x y = ⟨fadd x.re y.re, fadd x.im y.im⟩ ∧ cadd x y = cadd y x) ∧
  (∀ x y, csub x y = ⟨fsub x.re y.re, fsub x.im y.im⟩) ∧
  (∀ x : Cplx, isFinite x.re = true → isFinite x.im = true → csub x x = ⟨PZERO, PZERO⟩) ∧
  (∀ x y, cmul x y = ⟨fsub (fmul x.re y.re) (fmul x.im y.im), fadd (fmul x.re y.im) (fmul x.im y.re)⟩ ∧
    cmul x y = cmul y x) ∧
  (∀ x, cconj x = ⟨x.re, fneg x.im⟩ ∧ cconj (cconj x) = x)

/-- R144: polar to rectangular; magnitude `1.0` gives cosine and sine; a non-finite angle gives
`(CNAN, CNAN)`; an infinite magnitude gives infinities of the product's sign, and `CNAN` at a zero. -/
def Obligations.PolarForm : Prop :=
  (∀ mag ang, cpolar mag ang = ⟨fmul mag (COS ang), fmul mag (SIN ang)⟩) ∧
  (∀ ang, isFinite ang = true → cpolar ONE ang = ⟨COS ang, SIN ang⟩) ∧
  (∀ mag ang, isFinite ang = false → cpolar mag ang = ⟨CNAN, CNAN⟩) ∧
  (∀ mag ang, isInf mag = true → isFinite ang = true →
    (cpolar mag ang).re =
      (if isZero (COS ang) = true then CNAN else infOf (signBit mag != signBit (COS ang))) ∧
    (cpolar mag ang).im =
      (if isZero (SIN ang) = true then CNAN else infOf (signBit mag != signBit (SIN ang)))) ∧
  cpolar (infOf false) NZERO = ⟨infOf false, CNAN⟩

/-- R131: the properties T2 to T5 of the rotator's `COS` and `SIN` (T1 is that they are functions).  The
rotator itself is a free value of the model, notes/assumptions/4.md. -/
def Obligations.RotatorProperties : Prop :=
  (COS PZERO = ONE ∧ COS NZERO = ONE ∧ SIN PZERO = PZERO ∧ SIN NZERO = NZERO) ∧
  (∀ x, isFinite x = false → COS x = CNAN ∧ SIN x = CNAN) ∧
  (∀ x, isFinite x = true →
    (isFinite (COS x) = true ∧ |val (COS x)| ≤ 1) ∧ (isFinite (SIN x) = true ∧ |val (SIN x)| ≤ 1)) ∧
  0 < TRIG_EPS ∧
  (∀ x, isFinite x = true → |val x| ≤ val PI64 →
    |((val (COS x) : ℚ) : ℝ) - Real.cos ((val x : ℚ) : ℝ)| ≤ TRIG_EPS ∧
    |((val (SIN x) : ℚ) : ℝ) - Real.sin ((val x : ℚ) : ℝ)| ≤ TRIG_EPS)

/-- R150: the twiddle angle is `2 * val(PI64) * k`, rounded once, divided by `2^s`, and negative; it is
`-0` at `k = 0` and lies in `(-pi64, 0]`. -/
def Obligations.TwiddleAngles : Prop :=
  ∀ s k : Nat, 1 ≤ s → s ≤ 16 → k < 2 ^ (s - 1) →
    theta s k = fmul (fmul NEG_TWO_PI (i2f k)) (pow2 (-(s : Int))) ∧
    (∃ y, RoundsTo ((2 * val PI64 * k : ℚ) : ℝ) false y ∧ val (theta s k) = -val y / 2 ^ s) ∧
    theta s 0 = NZERO ∧
    isFinite (theta s k) = true ∧ -val PI64 < val (theta s k) ∧ val (theta s k) ≤ 0

/-- R151: the twiddle factor is `cpolar(ONE, theta)`, the cosine and sine of the angle; at `k = 0` it is
`(1.0, -0.0)` whatever the rotator (R156); within `TRIG_EPS` it is the point of the unit circle at
`theta` (R131, R158). -/
def Obligations.TwiddleFactors : Prop :=
  ∀ s k : Nat, 1 ≤ s → s ≤ 16 → k < 2 ^ (s - 1) →
    TW s k = cpolar ONE (theta s k) ∧ TW s k = ⟨COS (theta s k), SIN (theta s k)⟩ ∧
    TW s 0 = ⟨ONE, NZERO⟩ ∧
    |((val (TW s k).re : ℚ) : ℝ) - Real.cos ((val (theta s k) : ℚ) : ℝ)| ≤ TRIG_EPS ∧
    |((val (TW s k).im : ℚ) : ℝ) - Real.sin ((val (theta s k) : ℚ) : ℝ)| ≤ TRIG_EPS

/-- R159: angles subsample bit for bit, so one table of the largest stage serves every stage. -/
def Obligations.TwiddleSubsampling : Prop :=
  (∀ s j k : Nat, 1 ≤ s → s + j ≤ 16 → k < 2 ^ (s - 1) → theta s k = theta (s + j) (k * 2 ^ j)) ∧
  (∀ (p : Config.Params) (s k : Nat), 1 ≤ s → s ≤ p.lmax → k < 2 ^ (s - 1) →
    TW s k = TW p.lmax (k * 2 ^ (p.lmax - s)) ∧ k * 2 ^ (p.lmax - s) < p.nmax / 2)

/-- R153 and R160: the butterfly, and its properties (a) to (d). -/
def Obligations.ButterflyLaws : Prop :=
  (∀ e o w, bfly e o w = (cadd e (cmul o w), csub e (cmul o w))) ∧
  (∀ s (e o : Cplx), isFinite o.re = true → isFinite o.im = true → isZero o.re = false →
    isZero o.im = false → 1 ≤ s → s ≤ 16 →
    cmul o (TW s 0) = o ∧ bfly e o (TW s 0) = (cadd e o, csub e o) ∧
    (bfly o o (TW s 0)).2 = ⟨PZERO, PZERO⟩) ∧
  (∀ w : Cplx, isFinite w.re = true → isFinite w.im = true →
    bfly ⟨PZERO, PZERO⟩ ⟨PZERO, PZERO⟩ w = (⟨PZERO, PZERO⟩, ⟨PZERO, PZERO⟩)) ∧
  (∀ e o w : Cplx, isNaN o.re = true ∨ isNaN o.im = true ∨ isNaN w.re = true ∨ isNaN w.im = true →
    bfly e o w = (⟨CNAN, CNAN⟩, ⟨CNAN, CNAN⟩)) ∧
  (∀ e o w : Cplx, isNaN e.re = true → (bfly e o w).1.re = CNAN ∧ (bfly e o w).2.re = CNAN ∧
    ∀ r, (bfly ⟨r, e.im⟩ o w).1.im = (bfly e o w).1.im ∧ (bfly ⟨r, e.im⟩ o w).2.im = (bfly e o w).2.im) ∧
  (∀ e o w : Cplx, isNaN e.im = true → (bfly e o w).1.im = CNAN ∧ (bfly e o w).2.im = CNAN ∧
    ∀ m, (bfly ⟨e.re, m⟩ o w).1.re = (bfly e o w).1.re ∧ (bfly ⟨e.re, m⟩ o w).2.re = (bfly e o w).2.re)

/-- R180, under every rotator: the transform of `[1,0,0,0]` is four times `(1.0, +0.0)` and that of
`[1,1,1,1]` is `(4.0, +0.0)` and three times `(+0.0, +0.0)`. -/
def Obligations.KnownTransforms : Prop :=
  fft [⟨ONE, PZERO⟩, czero, czero, czero] =
    some [⟨ONE, PZERO⟩, ⟨ONE, PZERO⟩, ⟨ONE, PZERO⟩, ⟨ONE, PZERO⟩] ∧
  fft [⟨ONE, PZERO⟩, ⟨ONE, PZERO⟩, ⟨ONE, PZERO⟩, ⟨ONE, PZERO⟩] =
    some [⟨0x4010000000000000, PZERO⟩, czero, czero, czero]

/-! ### Reset, registers, memory, the host -/

/-- R47: what reset leaves, in the reset state and after a reset taken in any state at any time. -/
def Obligations.ResetLeaves : Prop :=
  ∀ t : State, (t = State.reset ∨ ∃ s, mover s = .reset ∧ step s = .next t) →
    csrValue 0 t = 0x46465431 ∧ csrValue 1 t = BitVec.ofNat 32 t.params.lmax ∧
    csrValue 2 t = 0 ∧ csrValue 3 t = 0 ∧ csrValue 4 t = 0 ∧ csrValue 5 t = 0 ∧ csrValue 6 t = 0 ∧
    csrValue 7 t = 0 ∧ csrValue 8 t = 0 ∧
    t.busy = false ∧ t.done = false ∧ t.err = false ∧ t.cause = 0 ∧ t.ie = false ∧
    t.nl = 0 ∧ t.ll = 0 ∧ irq t = false ∧
    (∀ r : Reg, t.cregs[r].written = false) ∧ (∀ j, t.mem.lookup j = none)

/-- R63: `CsrRead` completes at once in every state, answers the register, and changes no state of the
block; and what each register reads as: `ID`, `CAP`, `STATUS`, `CTRL`, `N`, `LEN`, `ERRINFO`, `SEQ`,
`CMD` and the reserved indices (R31 to R40; of what writes them other statements speak). -/
def Obligations.ControlRegisterReads : Prop :=
  (∀ (s : State) (rest : List ScriptLine) (x : Fin 16), HostTries s (.direct (.csrRead x)) rest →
    step s = .next (answered s rest (.word32 (csrValue x s)))) ∧
  (∀ s : State, csrValue 0 s = 0x46465431 ∧ csrValue 4 s = s.n ∧ csrValue 5 s = s.len ∧
    csrValue 6 s = s.errinfo ∧ csrValue 7 s = s.pos ∧ csrValue 8 s = s.cmdw ∧
    ∀ x : Fin 16, 9 ≤ x.val → csrValue x s = 0) ∧
  (∀ s : State, (csrValue 1 s).extractLsb' 0 5 = BitVec.ofNat 5 s.params.lmax ∧
    (csrValue 1 s).extractLsb' 5 27 = 0 ∧ s.params.nmax = 1 <<< ((csrValue 1 s).extractLsb' 0 5).toNat) ∧
  (∀ s : State, (csrValue 2 s).getLsbD 0 = s.busy ∧ (csrValue 2 s).getLsbD 1 = s.done ∧
    (csrValue 2 s).getLsbD 2 = s.err ∧ (csrValue 2 s).getLsbD 3 = false ∧
    (csrValue 2 s).extractLsb' 4 4 = s.cause ∧ (csrValue 2 s).extractLsb' 8 24 = 0) ∧
  (∀ s : State, (csrValue 3 s).getLsbD 0 = s.ie ∧ (csrValue 3 s).extractLsb' 1 31 = 0)

/-- R64 and R41: what a host's `CsrWrite` does, register by register; `CMD` runs the issue procedure of R218
(`CommandIssue`) and `CTRL` that of R34 (`ControlBitsAndInterrupt`); it never answers `BusError`. -/
def Obligations.ControlRegisterWrites : Prop :=
  ∀ (s : State) (rest : List ScriptLine) (x : Fin 16) (v : Word32),
    HostTries s (.direct (.csrWrite x v)) rest →
    (x = 4 → s.busy = false → step s = .next { answered s rest .ok with n := v }) ∧
    (x = 5 → s.busy = false → step s = .next { answered s rest .ok with len := v }) ∧
    (x = 4 ∨ x = 5 ∨ x = 8 → s.busy = true →
      step s = .next (stillHeld s (.direct (.csrWrite x v)) rest)) ∧
    (x ∈ [0, 1, 2, 6, 7, 9, 10, 11, 12, 13, 14, 15] → step s = .next (answered s rest .ok)) ∧
    (x = 3 → step s = .next (writeCtrl v (answered s rest .ok))) ∧
    (x = 8 → s.busy = false → ∃ t,
      issueWord v { s with held := none, script := rest, schedule := s.schedule.tail } = .next t ∧
      step s = .next { t with responses := s.responses ++ [.ok] })

/-- R34, R46, R226 and R231: a write of `CTRL` sets `IE` from bit 0 and, with bit 1 set, clears the fault
record; nothing else changes, and bits 31:1 read zero; `irq` is a level. -/
def Obligations.ControlBitsAndInterrupt : Prop :=
  (∀ (v : Word32) (s : State), v.getLsbD 1 = true →
    writeCtrl v s =
      { s with ie := v.getLsbD 0, done := false, err := false, cause := 0, errinfo := 0 }) ∧
  (∀ (v : Word32) (s : State), v.getLsbD 1 = false → writeCtrl v s = { s with ie := v.getLsbD 0 }) ∧
  (∀ s : State, (csrValue 3 s).getLsbD 0 = s.ie ∧ (csrValue 3 s).extractLsb' 1 31 = 0) ∧
  (∀ s : State, irq s = (s.ie && (s.done || s.err))) ∧
  (∀ s : State, s.done = true → irq (writeCtrl 1 s) = true ∧
    irq (writeCtrl 0 s) = false ∧ (writeCtrl 0 s).done = true) ∧
  (∀ s : State, (writeCtrl 3 s).ie = true ∧ (writeCtrl 3 s).done = false ∧
    (writeCtrl 3 s).err = false ∧ irq (writeCtrl 3 s) = false) ∧
  (∀ (s : State) (rest : List ScriptLine) (v : Word32), HostTries s (.direct (.csrWrite 3 v)) rest →
    step s = .next (writeCtrl v (answered s rest .ok)))

/-- R66 and R67: the host's data accesses, out of range, held, and performed; a read of a word that
nothing has written answers some word (R57). -/
def Obligations.DataMemoryTransactions : Prop :=
  (∀ (s : State) (rest : List ScriptLine) (j : Nat), HostTries s (.direct (.memRead j)) rest →
    (2 * s.params.nmax ≤ j → step s = .next (answered s rest .busError)) ∧
    (j < 2 * s.params.nmax → s.busy = true →
      step s = .next (stillHeld s (.direct (.memRead j)) rest)) ∧
    (j < 2 * s.params.nmax → s.busy = false →
      (∀ v, s.mem.lookup j = some v → step s = .next (answered s rest (.word64 v))) ∧
      (s.mem.lookup j = none → s.params.unwritten = .anyValue →
        ∃ v d, step s = .next { answered s rest (.word64 v) with draws := d }) ∧
      (s.mem.lookup j = none → s.params.unwritten = .refuse → step s = .refused .unwrittenRead))) ∧
  (∀ (s : State) (rest : List ScriptLine) (j : Nat) (v : F64),
    HostTries s (.direct (.memWrite j v)) rest →
    (2 * s.params.nmax ≤ j → step s = .next (answered s rest .busError)) ∧
    (j < 2 * s.params.nmax → s.busy = true →
      step s = .next (stillHeld s (.direct (.memWrite j v)) rest)) ∧
    (j < 2 * s.params.nmax → s.busy = false →
      ∃ m, step s = .next { answered s rest .ok with mem := m } ∧
        m.lookup j = some v ∧ ∀ a, a ≠ j → m.lookup a = s.mem.lookup a))

/-- R70: while a command is in flight the host completes only register reads, `CTRL` writes, discarded
writes and accesses that do not exist; everything else is held, and a held request changes no state
of the block. -/
def Obligations.HoldsWhileBusy : Prop :=
  ∀ (s : State) (rest : List ScriptLine) (x : HostTxn), HostTries s (.direct x) rest → s.busy = true →
    (isHeld x s = true ↔
      (∃ v, x = .csrWrite 4 v) ∨ (∃ v, x = .csrWrite 5 v) ∨ (∃ v, x = .csrWrite 8 v) ∨
      (∃ j, x = .memRead j ∧ j < 2 * s.params.nmax) ∨
      (∃ j v, x = .memWrite j v ∧ j < 2 * s.params.nmax)) ∧
    (isHeld x s = true → step s = .next (stillHeld s (.direct x) rest)) ∧
    (isHeld x s = false → ∃ t, step s = .next t ∧ t.held = none ∧
      t.busy = true ∧ t.n = s.n ∧ t.len = s.len ∧ t.cmdw = s.cmdw ∧ t.nl = s.nl ∧ t.ll = s.ll ∧
      t.pos = s.pos ∧ t.mem = s.mem ∧ t.cregs = s.cregs)

/-- R71 and R72: a byte-addressed bridge is little-endian and refuses every access that is not a naturally
aligned 8-byte access to data memory or 4-byte access to the control registers; one it accepts is the
direct transaction: it is held, or leaves the state that the direct one does, its response the direct
one's as bytes; a read of a word that nothing has written answers as R57 lets it.  A request as a region, a byte offset from that region's base and bytes, and the
refusal of register offsets from 64 on, are the model's (notes/assumptions/10.md). -/
def Obligations.BridgeIsLittleEndian : Prop :=
  (∀ (j : Nat) (bs : List (BitVec 8)), bs.length = 8 → ∃ v : F64,
    requestTxn (.busWrite .dmem (8 * j) bs) = some (.memWrite j v) ∧
    ∀ k (h : k < bs.length), v.extractLsb' (8 * k) 8 = bs[k]) ∧
  (∀ (x : Fin 16) (bs : List (BitVec 8)), bs.length = 4 → ∃ v : Word32,
    requestTxn (.busWrite .csr (4 * x.val) bs) = some (.csrWrite x v) ∧
    ∀ k (h : k < bs.length), v.extractLsb' (8 * k) 8 = bs[k]) ∧
  (∀ j o w, requestTxn (.busRead .dmem (8 * j) 8) = some (.memRead j) ∧
    ∀ v : F64, ∃ bs, deliver (.busRead .dmem o w) (.word64 v) = .bytes bs ∧ bs.length = 8 ∧
      ∀ k (h : k < bs.length), bs[k] = v.extractLsb' (8 * k) 8) ∧
  (∀ (x : Fin 16) o w, requestTxn (.busRead .csr (4 * x.val) 4) = some (.csrRead x) ∧
    ∀ v : Word32, ∃ bs, deliver (.busRead .csr o w) (.word32 v) = .bytes bs ∧ bs.length = 4 ∧
      ∀ k (h : k < bs.length), bs[k] = v.extractLsb' (8 * k) 8) ∧
  (∀ (s : State) (rest : List ScriptLine) (o w : Nat),
    (HostTries s (.busRead .dmem o w) rest → ¬ (w = 8 ∧ o % 8 = 0) →
      step s = .next (answered s rest .busError)) ∧
    (HostTries s (.busRead .csr o w) rest → ¬ (w = 4 ∧ o % 4 = 0 ∧ o < 64) →
      step s = .next (answered s rest .busError))) ∧
  (∀ (s : State) (rest : List ScriptLine) (o : Nat) (bs : List (BitVec 8)),
    (HostTries s (.busWrite .dmem o bs) rest → ¬ (bs.length = 8 ∧ o % 8 = 0) →
      step s = .next (answered s rest .busError)) ∧
    (HostTries s (.busWrite .csr o bs) rest → ¬ (bs.length = 4 ∧ o % 4 = 0 ∧ o < 64) →
      step s = .next (answered s rest .busError))) ∧
  (∀ q, deliver q .ok = .ok ∧ deliver q .busError = .busError) ∧
  (∀ (s d : State) (rest : List ScriptLine) (q : Request) (x : HostTxn), HostTries s q rest →
    requestTxn q = some x → d = { s with held := some (.direct x), script := rest } →
    HostTries d (.direct x) rest ∧
    (isHeld x s = true → step s = .next (stillHeld s q rest) ∧
      step d = .next (stillHeld d (.direct x) rest)) ∧
    (isHeld x s = false →
      (∀ j, x = .memRead j → j < 2 * s.params.nmax → s.mem.lookup j ≠ none) →
      (∀ t, step d = .next t → ∃ r, t.responses = s.responses ++ [r] ∧
        step s = .next { t with responses := s.responses ++ [deliver q r] }) ∧
      (∀ f, step d ≠ .fault f) ∧ (∀ f, step d ≠ .refused f)) ∧
    (∀ j, x = .memRead j → j < 2 * s.params.nmax → s.busy = false → s.mem.lookup j = none →
      (s.params.unwritten = .anyValue → ∃ v k,
        step s = .next { answered s rest (deliver q (.word64 v)) with draws := k }) ∧
      (s.params.unwritten = .refuse → step s = .refused .unwrittenRead)))

/-! ### Issue and faults -/

/-- R218: command issue.  Held while busy; discarded while a fault is recorded; a word that does not
decode and a command whose check fails raise their fault; otherwise the command is accepted.  The
transaction completes `Ok` in every case but the first. -/
def Obligations.CommandIssue : Prop :=
  ∀ (s : State) (rest : List ScriptLine) (w : Word32), HostTries s (.direct (.csrWrite 8 w)) rest →
    (s.busy = true → step s = .next (stillHeld s (.direct (.csrWrite 8 w)) rest)) ∧
    (s.busy = false → s.err = true → step s = .next (answered s rest .ok)) ∧
    (Idle s → ∀ e, decode w = .error e → step s = .next (faulted 1 w (answered s rest .ok))) ∧
    (Idle s → ∀ i c info, decode w = .ok i → issueCheck s.params i s.n s.len = some (c, info) →
      step s = .next (faulted c.code info (answered s rest .ok))) ∧
    (Idle s → ∀ i, decode w = .ok i → issueCheck s.params i s.n s.len = none →
      step s = .next { answered s rest .ok with
        cmdw := w, nl := s.n, ll := s.len, pos := 0, busy := true, done := false })

/-- R219: the issue checks of every command, in their order. -/
def Obligations.IssueChecksInOrder : Prop :=
  ∀ (p : Config.Params) (n l : Word32),
    (∀ i, (i = .nop ∨ (∃ d a b, i = .cadd d a b ∨ i = .csub d a b ∨ i = .cmul d a b) ∨
      (∃ d a, i = .cconj d a ∨ i = .cpolar d a) ∨ i = .npow2) → issueCheck p i n l = none) ∧
    (∀ d s k, issueCheck p (.twid d s k) n l =
      if 1 ≤ s ∧ s ≤ p.lmax ∧ k < 2 ^ (s - 1) then none
      else some (.badOperand, encode (.twid d s k))) ∧
    (∀ e o w, issueCheck p (.bfly e o w) n l =
      if e = o then some (.badOperand, encode (.bfly e o w)) else none) ∧
    (∀ d idx, issueCheck p (.cld d idx) n l =
      if idx < p.nmax then none else some (.badOperand, encode (.cld d idx))) ∧
    (∀ d idx, issueCheck p (.cst d idx) n l =
      if idx < p.nmax then none else some (.badOperand, encode (.cst d idx))) ∧
    (∀ i ∈ [Instr.bitrev, Instr.fft, Instr.ipost, Instr.ifft],
      (¬ TransformLength n → issueCheck p i n l = some (.invalidLength, n)) ∧
      (TransformLength n → p.nmax < n.toNat → issueCheck p i n l = some (.capacityExceeded, n)) ∧
      (TransformLength n → n.toNat ≤ p.nmax → issueCheck p i n l = none)) ∧
    (∀ s, (¬ TransformLength n → issueCheck p (.bstage s) n l = some (.invalidLength, n)) ∧
      (TransformLength n → p.nmax < n.toNat →
        issueCheck p (.bstage s) n l = some (.capacityExceeded, n)) ∧
      (TransformLength n → n.toNat ≤ p.nmax → ¬ (1 ≤ s ∧ s ≤ log2 n.toNat) →
        issueCheck p (.bstage s) n l = some (.badOperand, encode (.bstage s))) ∧
      (TransformLength n → n.toNat ≤ p.nmax → 1 ≤ s → s ≤ log2 n.toNat →
        issueCheck p (.bstage s) n l = none)) ∧
    (∀ i ∈ [Instr.conjv, Instr.lift], issueCheck p i n l =
      if n.toNat ≤ p.nmax then none else some (.capacityExceeded, n)) ∧
    issueCheck p .zpad n l =
      (if p.nmax < n.toNat then some (.capacityExceeded, n)
       else if 0 ≤ l.toInt ∧ l.toInt ≤ (n.toNat : Int) then none else some (.badOperand, l))

/-- R222: a command that a check refuses leaves the fault record and nothing else changed, whatever the
command. -/
def Obligations.FaultEntryChangesOnlyTheRecord : Prop :=
  (∀ (i : Instr) (s : State) (c : Cause) (info : Word32), Idle s →
    issueCheck s.params i s.n s.len = some (c, info) →
    exec i s = .next { s with err := true, done := false, cause := c.code, errinfo := info }) ∧
  (∀ (w : Word32) (e : Illegal) (s : State), Idle s → decode w = .error e →
    csrWrite 8 w s = .next { s with err := true, done := false, cause := 1, errinfo := w })

/-- R216: the four causes, their codes, what raises each and what `ERRINFO` records. -/
def Obligations.FaultConditions : Prop :=
  (∀ (w : Word32) (e : Illegal) (s : State), Idle s → decode w = .error e →
    csrWrite 8 w s = .next (faulted 1 w s)) ∧
  (∀ s : State, Idle s → ¬ TransformLength s.n →
    (∀ i ∈ [Instr.bitrev, Instr.fft, Instr.ipost, Instr.ifft], exec i s = .next (faulted 2 s.n s)) ∧
    ∀ st, exec (.bstage st) s = .next (faulted 2 s.n s)) ∧
  (∀ s : State, Idle s → s.params.nmax < s.n.toNat →
    (TransformLength s.n →
      (∀ i ∈ [Instr.bitrev, Instr.fft, Instr.ipost, Instr.ifft], exec i s = .next (faulted 3 s.n s)) ∧
      ∀ st, exec (.bstage st) s = .next (faulted 3 s.n s)) ∧
    ∀ i ∈ [Instr.conjv, Instr.zpad, Instr.lift], exec i s = .next (faulted 3 s.n s)) ∧
  (∀ s : State, Idle s →
    (∀ d st k, ¬ (1 ≤ st ∧ st ≤ s.params.lmax ∧ k < 2 ^ (st - 1)) →
      exec (.twid d st k) s = .next (faulted 4 (encode (.twid d st k)) s)) ∧
    (∀ e w, exec (.bfly e e w) s = .next (faulted 4 (encode (.bfly e e w)) s)) ∧
    (∀ d idx, s.params.nmax ≤ idx → exec (.cld d idx) s = .next (faulted 4 (encode (.cld d idx)) s) ∧
      exec (.cst d idx) s = .next (faulted 4 (encode (.cst d idx)) s)) ∧
    (∀ st, TransformLength s.n → s.n.toNat ≤ s.params.nmax → ¬ (1 ≤ st ∧ st ≤ log2 s.n.toNat) →
      exec (.bstage st) s = .next (faulted 4 (encode (.bstage st)) s)) ∧
    (s.n.toNat ≤ s.params.nmax → ¬ (0 ≤ s.len.toInt ∧ s.len.toInt ≤ (s.n.toNat : Int)) →
      exec .zpad s = .next (faulted 4 s.len s)))

/-- R229: while a fault is recorded every `CMD` write is discarded, and `N`, `LEN`, `CTRL` and data memory
can still be read and written, and every other register read.  A read of a word that nothing has
written answers as R57 lets it. -/
def Obligations.CommandsVanishWhileFaultRecorded : Prop :=
  ∀ (s : State) (rest : List ScriptLine), s.busy = false → s.err = true →
    (∀ w, csrWrite 8 w s = .next s) ∧ (∀ i, exec i s = .next s) ∧
    (∀ w, HostTries s (.direct (.csrWrite 8 w)) rest → step s = .next (answered s rest .ok)) ∧
    (∀ x, HostTries s (.direct (.csrRead x)) rest →
      step s = .next (answered s rest (.word32 (csrValue x s)))) ∧
    (csrValue 3 s = (if s.ie then 1 else 0) ∧ csrValue 4 s = s.n ∧ csrValue 5 s = s.len ∧
      csrValue 6 s = s.errinfo) ∧
    (∀ v, HostTries s (.direct (.csrWrite 4 v)) rest →
      step s = .next { answered s rest .ok with n := v }) ∧
    (∀ v, HostTries s (.direct (.csrWrite 5 v)) rest →
      step s = .next { answered s rest .ok with len := v }) ∧
    (∀ v, HostTries s (.direct (.csrWrite 3 v)) rest →
      step s = .next (writeCtrl v (answered s rest .ok))) ∧
    (∀ j v, j < 2 * s.params.nmax → s.mem.lookup j = some v →
      HostTries s (.direct (.memRead j)) rest → step s = .next (answered s rest (.word64 v))) ∧
    (∀ j, j < 2 * s.params.nmax → s.mem.lookup j = none →
      HostTries s (.direct (.memRead j)) rest →
      (s.params.unwritten = .anyValue →
        ∃ v k, step s = .next { answered s rest (.word64 v) with draws := k }) ∧
      (s.params.unwritten = .refuse → step s = .refused .unwrittenRead)) ∧
    (∀ j v, j < 2 * s.params.nmax → HostTries s (.direct (.memWrite j v)) rest →
      step s = .next { answered s rest .ok with mem := s.mem.write j v })

/-! ### Whole-machine rules -/

/-- The invariant holds after reset (R59, R47). -/
def Obligations.InvariantAtReset : Prop := Inv State.reset

/-- R59: every step keeps the invariant, from every state that has it, and a reset establishes it from any
state: the four implications of the rule, and the canonical form of data memory. -/
def Obligations.StepKeepsInvariant : Prop :=
  (∀ s t : State, Inv s → step s = .next t → Inv t) ∧
  (∀ s t : State, mover s = .reset → step s = .next t → Inv t) ∧
  (∀ s : State, Inv s →
    (s.busy = true → s.done = false ∧ s.err = false) ∧
    (s.err = true → s.done = false ∧ 1 ≤ s.cause.toNat ∧ s.cause.toNat ≤ 4) ∧
    (s.err = false → s.cause = 0 ∧ s.errinfo = 0) ∧
    (s.busy = true → ∃ i, decode s.cmdw = .ok i ∧ s.pos.toNat ≤ (expand i s.nl s.ll).length))

/-- No step faults in a state with the invariant, and none is refused where the part answers reads of
never-written words with any value (R27, R57, R81). -/
def Obligations.StepNeverStops : Prop :=
  ∀ s : State, Inv s → (∀ f, step s ≠ .fault f) ∧
    (s.params.unwritten = .anyValue → ∃ t, step s = .next t)

/-- R57, a read of a word that nothing has written: under `UNWRITTEN = any value` it draws a free value, a
fresh one at each read, and the machine goes on; under `refuse` a micro-op that reads one is refused
and one that reads none runs.  The model's own, and no words of R57: that the value is `Config.freeWord`
at the counter, which a draw moves by one (notes/assumptions/3.md); that a register draws its real word
before its imaginary (notes/assumptions/13.md); that the refusal comes before any effect of the
micro-op (notes/assumptions/15.md). -/
def Obligations.ReadsOfUnwrittenWords : Prop :=
  (∀ (s : State) (j : Nat), s.mem.lookup j = none →
    readWord j s = (Config.freeWord s.draws, { s with draws := s.draws + 1 })) ∧
  (∀ (s : State) (j : Nat) (v : F64), s.mem.lookup j = some v → readWord j s = (v, s)) ∧
  (∀ (s : State) (r : Reg), s.cregs[r].written = false →
    readReg r s = (⟨Config.freeWord s.draws, Config.freeWord (s.draws + 1)⟩,
      { s with draws := s.draws + 2 })) ∧
  (∀ (s : State) (r : Reg), s.cregs[r].written = true → readReg r s = (s.cregs[r].value, s)) ∧
  (∀ (i : Instr) (s : State) (u : UOp), s.busy = true → (expand i s.nl s.ll)[s.pos.toNat]? = some u →
    issueCheck s.params i s.nl s.ll = none → s.params.unwritten = .refuse →
    ((∃ r ∈ regsRead u, s.cregs[r].written = false) ∨ (∃ e ∈ entriesRead u, ¬ EntryWritten s e) →
      exec i s = .refused .unwrittenRead) ∧
    ((∀ r ∈ regsRead u, s.cregs[r].written = true) → (∀ e ∈ entriesRead u, EntryWritten s e) →
      exec i s = .next (advance (perform u s))))

/-- R27: the sequencer is enabled exactly while `BUSY = 1`; a command of `k` micro-ops takes its issue, then
each micro-op in order with `pos` counting them, then the retire step: `k + 1` sequencer steps. -/
def Obligations.CommandsRetire : Prop :=
  (∀ s : State, s.busy = false → sequencerTurn s = .next s) ∧
  (∀ (i : Instr) (s : State), Idle s → s.params.unwritten = .anyValue →
    issueCheck s.params i s.n s.len = none →
    exec i s = .next (inFlight (encode i) 0 s) ∧
    ∀ k, k = (expand i s.n s.len).length →
      (∀ m (h : m < (expand i s.n s.len).length), ∃ t, execTimes i (m + 1) s = .next t ∧
        t.busy = true ∧ t.done = false ∧ t.pos.toNat = m ∧
        exec i t = .next (advance (perform (expand i s.n s.len)[m] t))) ∧
      ∃ t, execTimes i (k + 1) s = .next t ∧ t.busy = true ∧ t.done = false ∧ t.pos.toNat = k ∧
        exec i t = .next { t with busy := false, done := true } ∧
        execTimes i (k + 2) s = .next { t with busy := false, done := true })

/-- R82, as far as writes go: a command writes no word of data memory outside its footprint, in every
state whose command in flight passed its checks. -/
def Obligations.FootprintOfEveryCommand : Prop :=
  ∀ (i : Instr) (s t : State), (s.busy = true → issueCheck s.params i s.nl s.ll = none) →
    exec i s = .next t → ∀ j, ¬ MayWriteWord i s.nl s.ll j → t.mem.lookup j = s.mem.lookup j

/-- R23: the vector commands, `NPOW2` and `NOP` neither read nor write any register: what they do to a
state is what they do to it with any other register file.  The two runs compared have equal counters of
draws, so on entries that nothing has written they read the same free words, which R57 does not
promise of a part: that is the model's (notes/assumptions/3.md, unsafe there). -/
def Obligations.VectorCommandsIgnoreRegisters : Prop :=
  ∀ (i : Instr) (s : State) (c : Vector CReg 8), NamesNoRegister i →
    exec i { s with cregs := c } = withRegs c (exec i s)

/-- What no command writes: `LEN`, `CTRL`, the parameters, the host's side; `N` but for `NPOW2`; and, while
it runs, the fault record and the latches (R12, R34 to R36, R42, R58). -/
def Obligations.CommandsLeaveTheRestAlone : Prop :=
  ∀ (i : Instr) (s t : State), exec i s = .next t →
    t.params = s.params ∧ t.ie = s.ie ∧ t.len = s.len ∧ t.script = s.script ∧ t.held = s.held ∧
    t.schedule = s.schedule ∧ t.responses = s.responses ∧
    (i ≠ .npow2 → t.n = s.n) ∧
    (s.busy = true → t.err = s.err ∧ t.cause = s.cause ∧ t.errinfo = s.errinfo ∧ t.cmdw = s.cmdw ∧
      t.nl = s.nl ∧ t.ll = s.ll) ∧
    (s.busy = false → t.cregs = s.cregs ∧ t.mem = s.mem ∧ t.n = s.n ∧ t.draws = s.draws)

/-- R42: a step that accepts a command (`BUSY` goes to 1) is the host's `CMD` write, and it latches the
command word, `N` and `LEN`; a reset clears the latches (R47); no other step changes them. -/
def Obligations.LatchesChangeOnlyAtAcceptance : Prop :=
  ∀ s t : State, step s = .next t →
    (s.busy = false → t.busy = true →
      ∃ q rest w, HostTries s q rest ∧ requestTxn q = some (.csrWrite 8 w) ∧
        t.cmdw = w ∧ t.nl = s.n ∧ t.ll = s.len ∧ t.pos = 0) ∧
    (mover s = .reset → t.busy = false ∧ t.cmdw = 0 ∧ t.nl = 0 ∧ t.ll = 0) ∧
    (mover s ≠ .reset → ¬ (s.busy = false ∧ t.busy = true) →
      t.cmdw = s.cmdw ∧ t.nl = s.nl ∧ t.ll = s.ll)

/-- A step runs the decoded command: `CMD` written by the host's move to an idle block is `exec` of the
command, the host answered `Ok`; the sequencer's move while busy is `exec` of the command in `CMDW`
(R27, R39, R80, R218). -/
def Obligations.StepRunsTheDecodedCommand : Prop :=
  (∀ (s t : State) (rest : List ScriptLine) (w : Word32) (i : Instr),
    HostTries s (.direct (.csrWrite 8 w)) rest → Idle s → decode w = .ok i →
    exec i { s with held := none, script := rest, schedule := s.schedule.tail } = .next t →
    step s = .next { t with responses := t.responses ++ [.ok] }) ∧
  (∀ (s : State) (i : Instr), mover s = .sequencer → s.busy = true → decode s.cmdw = .ok i →
    step s = exec i { s with schedule := s.schedule.tail })

/-! ### The register commands, whole

Each says what the three steps of the command answer from every idle state in which its operands may be
read: issue, the one micro-op, the retire step.  The record after `with` is all that changes. -/

/-- `NOP` (R207): nothing changes but `STATUS`, `SEQ` and `CMD`, with the latches. -/
def Obligations.NopRuns : Prop :=
  ∀ s : State, Idle s →
    exec .nop s = .next (inFlight 0x04000000 0 s) ∧
    exec .nop (inFlight 0x04000000 0 s) = .next (inFlight 0x04000000 1 s) ∧
    exec .nop (inFlight 0x04000000 1 s) = .next (finished 0x04000000 1 s)

/-- `CADD`, `CSUB`, `CMUL` (R145 to R147): `C[d]` takes the sum, difference or product of `C[a]` and `C[b]`
as they were, whichever of the three coincide. -/
def Obligations.AddSubtractMultiplyRun : Prop :=
  ∀ (d a b : Reg) (s : State), Idle s → RegsReadable s [a, b] →
    (∃ x y k t, RegReads s a x ∧ RegReads s b y ∧
      t = { s with cregs := s.cregs.set d ⟨true, cadd x y⟩, draws := k } ∧
      exec (.cadd d a b) s = .next (inFlight (encode (.cadd d a b)) 0 s) ∧
      exec (.cadd d a b) (inFlight (encode (.cadd d a b)) 0 s) =
        .next (inFlight (encode (.cadd d a b)) 1 t) ∧
      exec (.cadd d a b) (inFlight (encode (.cadd d a b)) 1 t) =
        .next (finished (encode (.cadd d a b)) 1 t)) ∧
    (∃ x y k t, RegReads s a x ∧ RegReads s b y ∧
      t = { s with cregs := s.cregs.set d ⟨true, csub x y⟩, draws := k } ∧
      exec (.csub d a b) s = .next (inFlight (encode (.csub d a b)) 0 s) ∧
      exec (.csub d a b) (inFlight (encode (.csub d a b)) 0 s) =
        .next (inFlight (encode (.csub d a b)) 1 t) ∧
      exec (.csub d a b) (inFlight (encode (.csub d a b)) 1 t) =
        .next (finished (encode (.csub d a b)) 1 t)) ∧
    (∃ x y k t, RegReads s a x ∧ RegReads s b y ∧
      t = { s with cregs := s.cregs.set d ⟨true, cmul x y⟩, draws := k } ∧
      exec (.cmul d a b) s = .next (inFlight (encode (.cmul d a b)) 0 s) ∧
      exec (.cmul d a b) (inFlight (encode (.cmul d a b)) 0 s) =
        .next (inFlight (encode (.cmul d a b)) 1 t) ∧
      exec (.cmul d a b) (inFlight (encode (.cmul d a b)) 1 t) =
        .next (finished (encode (.cmul d a b)) 1 t))

/-- `CCONJ` and `CPOLAR` (R148, R149): `C[d]` takes the conjugate of `C[a]`, or the rectangular form of the
magnitude `C[a].re` at the angle `C[a].im`. -/
def Obligations.ConjugateAndPolarRun : Prop :=
  ∀ (d a : Reg) (s : State), Idle s → RegsReadable s [a] →
    (∃ x k t, RegReads s a x ∧
      t = { s with cregs := s.cregs.set d ⟨true, cconj x⟩, draws := k } ∧
      exec (.cconj d a) s = .next (inFlight (encode (.cconj d a)) 0 s) ∧
      exec (.cconj d a) (inFlight (encode (.cconj d a)) 0 s) =
        .next (inFlight (encode (.cconj d a)) 1 t) ∧
      exec (.cconj d a) (inFlight (encode (.cconj d a)) 1 t) =
        .next (finished (encode (.cconj d a)) 1 t)) ∧
    (∃ x k t, RegReads s a x ∧
      t = { s with cregs := s.cregs.set d ⟨true, cpolar x.re x.im⟩, draws := k } ∧
      exec (.cpolar d a) s = .next (inFlight (encode (.cpolar d a)) 0 s) ∧
      exec (.cpolar d a) (inFlight (encode (.cpolar d a)) 0 s) =
        .next (inFlight (encode (.cpolar d a)) 1 t) ∧
      exec (.cpolar d a) (inFlight (encode (.cpolar d a)) 1 t) =
        .next (finished (encode (.cpolar d a)) 1 t))

/-- `TWID` (R154): for `1 <= s <= LMAX` and `k < 2^(s-1)`, `C[d]` takes `TW(s, k)`. -/
def Obligations.TwiddleCommandRuns : Prop :=
  ∀ (d : Reg) (st k : Nat) (s : State), Idle s → 1 ≤ st → st ≤ s.params.lmax → k < 2 ^ (st - 1) →
    let w := encode (.twid d st k)
    let t := { s with cregs := s.cregs.set d ⟨true, TW st k⟩ }
    exec (.twid d st k) s = .next (inFlight w 0 s) ∧
    exec (.twid d st k) (inFlight w 0 s) = .next (inFlight w 1 t) ∧
    exec (.twid d st k) (inFlight w 1 t) = .next (finished w 1 t)

/-- `BFLY` (R155): for distinct `e` and `o`, `C[e]` and `C[o]` take the two results of the butterfly of the
three registers as they were; the twiddle register may be one of the two. -/
def Obligations.ButterflyCommandRuns : Prop :=
  ∀ (e o w : Reg) (s : State), Idle s → e ≠ o → RegsReadable s [e, o, w] →
    ∃ x y z k t, RegReads s e x ∧ RegReads s o y ∧ RegReads s w z ∧
      t = { s with
        cregs := (s.cregs.set e ⟨true, (bfly x y z).1⟩).set o ⟨true, (bfly x y z).2⟩, draws := k } ∧
      exec (.bfly e o w) s = .next (inFlight (encode (.bfly e o w)) 0 s) ∧
      exec (.bfly e o w) (inFlight (encode (.bfly e o w)) 0 s) =
        .next (inFlight (encode (.bfly e o w)) 1 t) ∧
      exec (.bfly e o w) (inFlight (encode (.bfly e o w)) 1 t) =
        .next (finished (encode (.bfly e o w)) 1 t)

/-- `CLD` and `CST` (R205, R206): for `idx < NMAX`, `C[d]` takes both words of `D[idx]`; both words of
`D[idx]` take those of `C[d]`, every other word of data memory reading as before. -/
def Obligations.LoadAndStoreRun : Prop :=
  (∀ (d : Reg) (idx : Nat) (s : State), Idle s → idx < s.params.nmax → EntriesReadable s [idx] →
    ∃ x k t, EntryReads s idx x ∧
      t = { s with cregs := s.cregs.set d ⟨true, x⟩, draws := k } ∧
      exec (.cld d idx) s = .next (inFlight (encode (.cld d idx)) 0 s) ∧
      exec (.cld d idx) (inFlight (encode (.cld d idx)) 0 s) =
        .next (inFlight (encode (.cld d idx)) 1 t) ∧
      exec (.cld d idx) (inFlight (encode (.cld d idx)) 1 t) =
        .next (finished (encode (.cld d idx)) 1 t)) ∧
  (∀ (d : Reg) (idx : Nat) (s : State), Idle s → idx < s.params.nmax → RegsReadable s [d] →
    ∃ x m k t, RegReads s d x ∧ t = { s with mem := m, draws := k } ∧
      EntryIs t idx x ∧
      (∀ j, j ≠ 2 * idx → j ≠ 2 * idx + 1 → m.lookup j = s.mem.lookup j) ∧
      exec (.cst d idx) s = .next (inFlight (encode (.cst d idx)) 0 s) ∧
      exec (.cst d idx) (inFlight (encode (.cst d idx)) 0 s) =
        .next (inFlight (encode (.cst d idx)) 1 t) ∧
      exec (.cst d idx) (inFlight (encode (.cst d idx)) 1 t) =
        .next (finished (encode (.cst d idx)) 1 t))

/-- `NPOW2` (R195): `N` takes `npow2` of the latched `LEN`, at the micro-op, not at issue. -/
def Obligations.NextPowerCommandRuns : Prop :=
  ∀ s : State, Idle s →
    exec .npow2 s = .next (inFlight 0xA0000000 0 s) ∧
    exec .npow2 (inFlight 0xA0000000 0 s) =
      .next { inFlight 0xA0000000 1 s with n := npow2 s.len } ∧
    exec .npow2 { inFlight 0xA0000000 1 s with n := npow2 s.len } =
      .next { finished 0xA0000000 1 s with n := npow2 s.len }

/-! ### The vector commands, whole

Each says what the issue of the command and all its steps answer from every idle state in which its
length is legal and what it reads may be read.  `finished` and the record after `with` are all that
changes outside data memory. -/

/-- `BITREV` (R168, R174): `D[i]` takes what `D[rev(p, i)]` held, palindromes and entries from `NL` on keep
both words, and doing it twice restores every word of data memory. -/
def Obligations.BitReverseCommandRuns : Prop :=
  ∀ (s : State) (n k : Nat), Idle s → n = s.n.toNat → TransformLength s.n → n ≤ s.params.nmax →
    EntriesReadable s ((List.range n).filter fun i => rev (log2 n) i ≠ i) →
    k = (expand .bitrev s.n s.len).length →
    exec .bitrev s = .next (inFlight 0x80000000 0 s) ∧
    ∃ t, execTimes .bitrev (k + 2) s = .next t ∧
      t = finished 0x80000000 k { s with mem := t.mem, draws := t.draws } ∧
      (∀ i < n, rev (log2 n) i ≠ i → ∃ x, EntryReads s (rev (log2 n) i) x ∧ EntryIs t i x) ∧
      (∀ i < n, rev (log2 n) i = i → SameEntry s t i) ∧ SameFrom (2 * n) s t ∧
      ((∀ i < n, EntryWritten s i) →
        (∀ i < n, ∀ x, EntryIs s (rev (log2 n) i) x → EntryIs t i x) ∧
        ∃ u, execTimes .bitrev (k + 2) t = .next u ∧ ∀ j, u.mem.lookup j = s.mem.lookup j)

/-- `BSTAGE s` (R169, R171): with half-span `h = 2^(s-1)`, butterfly `i` of the `NL/2` takes the entries
`a = (i / h) * 2^s + i % h` and `a + h` as they were before the command, with the twiddle
`TW(s, i % h)`; entries from `NL` on keep both words. -/
def Obligations.StageCommandRuns : Prop :=
  ∀ (st : Nat) (s : State) (n h k : Nat), Idle s → n = s.n.toNat → h = 2 ^ (st - 1) →
    TransformLength s.n → n ≤ s.params.nmax → 1 ≤ st → st ≤ log2 n →
    EntriesReadable s (List.range n) → k = (expand (.bstage st) s.n s.len).length →
    exec (.bstage st) s = .next (inFlight (encode (.bstage st)) 0 s) ∧ k = n / 2 ∧
    ∃ t, execTimes (.bstage st) (k + 2) s = .next t ∧
      t = finished (encode (.bstage st)) k { s with mem := t.mem, draws := t.draws } ∧
      (∀ i < n / 2, ∃ e o, EntryReads s (i / h * 2 ^ st + i % h) e ∧
        EntryReads s (i / h * 2 ^ st + i % h + h) o ∧
        EntryIs t (i / h * 2 ^ st + i % h) (bfly e o (TW st (i % h))).1 ∧
        EntryIs t (i / h * 2 ^ st + i % h + h) (bfly e o (TW st (i % h))).2) ∧
      SameFrom (2 * n) s t

/-- `FFT` (R172, R176): on entries `0 .. NL-1` holding `x`, the command leaves `fft(x)`, the recursion of
R165, bit for bit, under every rotator; entries from `NL` on keep both words, and no register changes.
Lengths 0 and 1 are included (R177). -/
def Obligations.ForwardTransformRuns : Prop :=
  ∀ (s : State) (x : List Cplx) (k : Nat), Idle s → x.length = s.n.toNat → TransformLength s.n →
    s.n.toNat ≤ s.params.nmax → Holds s x → k = (expand .fft s.n s.len).length →
    exec .fft s = .next (inFlight 0x88000000 0 s) ∧
    ∃ y t, fft x = some y ∧ y.length = x.length ∧ execTimes .fft (k + 2) s = .next t ∧
      t = finished 0x88000000 k { s with mem := t.mem } ∧ Holds t y ∧ SameFrom (2 * x.length) s t ∧
      (x.length ≤ 1 → t.mem = s.mem)

/-- `IFFT` (R190): on entries `0 .. NL-1` holding `x`, the command leaves `ifft(x)` of R185, bit for bit,
under every rotator; entries from `NL` on keep both words, and no register changes. -/
def Obligations.InverseTransformRuns : Prop :=
  ∀ (s : State) (x : List Cplx) (k : Nat), Idle s → x.length = s.n.toNat → TransformLength s.n →
    s.n.toNat ≤ s.params.nmax → Holds s x → k = (expand .ifft s.n s.len).length →
    exec .ifft s = .next (inFlight 0x94000000 0 s) ∧
    ∃ y t, ifft x = some y ∧ y.length = x.length ∧ execTimes .ifft (k + 2) s = .next t ∧
      t = finished 0x94000000 k { s with mem := t.mem } ∧ Holds t y ∧ SameFrom (2 * x.length) s t

/-- `CONJV` (R186): every entry below `NL` is conjugated; `NL` need not be a power of two. -/
def Obligations.ConjugateVectorRuns : Prop :=
  ∀ (s : State) (n : Nat), Idle s → n = s.n.toNat → n ≤ s.params.nmax →
    EntriesReadable s (List.range n) →
    exec .conjv s = .next (inFlight 0x8C000000 0 s) ∧
    ∃ t, execTimes .conjv (n + 2) s = .next t ∧
      t = finished 0x8C000000 n { s with mem := t.mem, draws := t.draws } ∧
      (∀ i < n, ∃ x, EntryReads s i x ∧ EntryIs t i ⟨x.re, fneg x.im⟩) ∧ SameFrom (2 * n) s t

/-- `IPOST` (R187): every entry below `NL` has its real word scaled by `2^-p` and its imaginary word
negated, with `p = log2(NL)`. -/
def Obligations.PostProcessRuns : Prop :=
  ∀ (s : State) (n : Nat), Idle s → n = s.n.toNat → TransformLength s.n → n ≤ s.params.nmax →
    EntriesReadable s (List.range n) →
    exec .ipost s = .next (inFlight 0x90000000 0 s) ∧
    ∃ t, execTimes .ipost (n + 2) s = .next t ∧
      t = finished 0x90000000 n { s with mem := t.mem, draws := t.draws } ∧
      (∀ i < n, ∃ x, EntryReads s i x ∧
        EntryIs t i ⟨fmul x.re (pow2 (-(log2 n : Int))), fneg x.im⟩) ∧ SameFrom (2 * n) s t

/-- `ZPAD` (R197): for `0 <= LL <= NL`, both words of the entries `LL .. NL-1` become `+0`; every other word
of data memory keeps what it held, read by nothing. -/
def Obligations.ZeroPadRuns : Prop :=
  ∀ (s : State) (n l : Nat), Idle s → n = s.n.toNat → (l : Int) = s.len.toInt → l ≤ n →
    n ≤ s.params.nmax →
    exec .zpad s = .next (inFlight 0xA4000000 0 s) ∧
    ∃ t, execTimes .zpad (n - l + 2) s = .next t ∧
      t = finished 0xA4000000 (n - l) { s with mem := t.mem } ∧
      (∀ i, l ≤ i → i < n → EntryIs t i ⟨PZERO, PZERO⟩) ∧
      (∀ j, j < 2 * l ∨ 2 * n ≤ j → t.mem.lookup j = s.mem.lookup j)

/-- `LIFT` (R198): the imaginary word of every entry below `NL` becomes `+0`; every other word of data memory
keeps what it held, and nothing is read. -/
def Obligations.LiftRuns : Prop :=
  ∀ (s : State) (n : Nat), Idle s → n = s.n.toNat → n ≤ s.params.nmax →
    exec .lift s = .next (inFlight 0xA8000000 0 s) ∧
    ∃ t, execTimes .lift (n + 2) s = .next t ∧
      t = finished 0xA8000000 n { s with mem := t.mem } ∧
      (∀ i < n, t.mem.lookup (2 * i + 1) = some PZERO) ∧
      (∀ j, (∀ i < n, j ≠ 2 * i + 1) → t.mem.lookup j = s.mem.lookup j)

/-- R194: `IFFT` leaves what `CONJV`, `FFT` and `IPOST` leave one after another, but for `CMD` and `SEQ`: on
entries that have been written, data memory too is identical.  Entries that nothing has written read
as any value, so of them only is said that all four commands run, that everything but the data below
`NL` is identical, and that every word below `NL` is then written. -/
def Obligations.InverseIsThreeCommands : Prop :=
  ∀ s : State, Idle s → TransformLength s.n → s.n.toNat ≤ s.params.nmax →
    EntriesReadable s (List.range s.n.toNat) →
    ∃ a b c u, wholeCommand .conjv s = .next a ∧ wholeCommand .fft a = .next b ∧
      wholeCommand .ipost b = .next c ∧ wholeCommand .ifft s = .next u ∧
      u = { c with cmdw := u.cmdw, pos := u.pos, mem := u.mem, draws := u.draws } ∧
      SameFrom (2 * s.n.toNat) c u ∧ (∀ i < s.n.toNat, EntryWritten c i ∧ EntryWritten u i) ∧
      ((∀ i < s.n.toNat, EntryWritten s i) → u.mem = c.mem ∧ u.draws = c.draws)

end Statements
end

