-- ==== Sys2Proof/Laws/State.lean ====
section
/-! SUPPORT. One lemma per field per update of the state, each true by `rfl`, so that no later proof
unfolds a record update; and what a read of never-written state leaves alone. -/

namespace Sys2Proof.Machine

/-! ### `draw2` -/

@[simp] theorem draw2_params (s : State) : (draw s).2.params = s.params := rfl
@[simp] theorem draw2_cregs (s : State) : (draw s).2.cregs = s.cregs := rfl
@[simp] theorem draw2_mem (s : State) : (draw s).2.mem = s.mem := rfl
@[simp] theorem draw2_busy (s : State) : (draw s).2.busy = s.busy := rfl
@[simp] theorem draw2_done (s : State) : (draw s).2.done = s.done := rfl
@[simp] theorem draw2_err (s : State) : (draw s).2.err = s.err := rfl
@[simp] theorem draw2_cause (s : State) : (draw s).2.cause = s.cause := rfl
@[simp] theorem draw2_ie (s : State) : (draw s).2.ie = s.ie := rfl
@[simp] theorem draw2_n (s : State) : (draw s).2.n = s.n := rfl
@[simp] theorem draw2_len (s : State) : (draw s).2.len = s.len := rfl
@[simp] theorem draw2_errinfo (s : State) : (draw s).2.errinfo = s.errinfo := rfl
@[simp] theorem draw2_pos (s : State) : (draw s).2.pos = s.pos := rfl
@[simp] theorem draw2_cmdw (s : State) : (draw s).2.cmdw = s.cmdw := rfl
@[simp] theorem draw2_nl (s : State) : (draw s).2.nl = s.nl := rfl
@[simp] theorem draw2_ll (s : State) : (draw s).2.ll = s.ll := rfl
@[simp] theorem draw2_draws (s : State) : (draw s).2.draws = s.draws + 1 := rfl
@[simp] theorem draw2_script (s : State) : (draw s).2.script = s.script := rfl
@[simp] theorem draw2_held (s : State) : (draw s).2.held = s.held := rfl
@[simp] theorem draw2_schedule (s : State) : (draw s).2.schedule = s.schedule := rfl
@[simp] theorem draw2_responses (s : State) : (draw s).2.responses = s.responses := rfl

/-! ### `writeWord` -/

@[simp] theorem writeWord_params (j : Nat) (v : F64) (s : State) : (writeWord j v s).params = s.params := rfl
@[simp] theorem writeWord_cregs (j : Nat) (v : F64) (s : State) : (writeWord j v s).cregs = s.cregs := rfl
@[simp] theorem writeWord_mem (j : Nat) (v : F64) (s : State) : (writeWord j v s).mem = s.mem.write j v := rfl
@[simp] theorem writeWord_busy (j : Nat) (v : F64) (s : State) : (writeWord j v s).busy = s.busy := rfl
@[simp] theorem writeWord_done (j : Nat) (v : F64) (s : State) : (writeWord j v s).done = s.done := rfl
@[simp] theorem writeWord_err (j : Nat) (v : F64) (s : State) : (writeWord j v s).err = s.err := rfl
@[simp] theorem writeWord_cause (j : Nat) (v : F64) (s : State) : (writeWord j v s).cause = s.cause := rfl
@[simp] theorem writeWord_ie (j : Nat) (v : F64) (s : State) : (writeWord j v s).ie = s.ie := rfl
@[simp] theorem writeWord_n (j : Nat) (v : F64) (s : State) : (writeWord j v s).n = s.n := rfl
@[simp] theorem writeWord_len (j : Nat) (v : F64) (s : State) : (writeWord j v s).len = s.len := rfl
@[simp] theorem writeWord_errinfo (j : Nat) (v : F64) (s : State) : (writeWord j v s).errinfo = s.errinfo := rfl
@[simp] theorem writeWord_pos (j : Nat) (v : F64) (s : State) : (writeWord j v s).pos = s.pos := rfl
@[simp] theorem writeWord_cmdw (j : Nat) (v : F64) (s : State) : (writeWord j v s).cmdw = s.cmdw := rfl
@[simp] theorem writeWord_nl (j : Nat) (v : F64) (s : State) : (writeWord j v s).nl = s.nl := rfl
@[simp] theorem writeWord_ll (j : Nat) (v : F64) (s : State) : (writeWord j v s).ll = s.ll := rfl
@[simp] theorem writeWord_draws (j : Nat) (v : F64) (s : State) : (writeWord j v s).draws = s.draws := rfl
@[simp] theorem writeWord_script (j : Nat) (v : F64) (s : State) : (writeWord j v s).script = s.script := rfl
@[simp] theorem writeWord_held (j : Nat) (v : F64) (s : State) : (writeWord j v s).held = s.held := rfl
@[simp] theorem writeWord_schedule (j : Nat) (v : F64) (s : State) : (writeWord j v s).schedule = s.schedule := rfl
@[simp] theorem writeWord_responses (j : Nat) (v : F64) (s : State) : (writeWord j v s).responses = s.responses := rfl

/-! ### `writeReg` -/

@[simp] theorem writeReg_params (r : Reg) (v : Cplx) (s : State) : (writeReg r v s).params = s.params := rfl
@[simp] theorem writeReg_cregs (r : Reg) (v : Cplx) (s : State) : (writeReg r v s).cregs = s.cregs.set r { written := true, value := v } := rfl
@[simp] theorem writeReg_mem (r : Reg) (v : Cplx) (s : State) : (writeReg r v s).mem = s.mem := rfl
@[simp] theorem writeReg_busy (r : Reg) (v : Cplx) (s : State) : (writeReg r v s).busy = s.busy := rfl
@[simp] theorem writeReg_done (r : Reg) (v : Cplx) (s : State) : (writeReg r v s).done = s.done := rfl
@[simp] theorem writeReg_err (r : Reg) (v : Cplx) (s : State) : (writeReg r v s).err = s.err := rfl
@[simp] theorem writeReg_cause (r : Reg) (v : Cplx) (s : State) : (writeReg r v s).cause = s.cause := rfl
@[simp] theorem writeReg_ie (r : Reg) (v : Cplx) (s : State) : (writeReg r v s).ie = s.ie := rfl
@[simp] theorem writeReg_n (r : Reg) (v : Cplx) (s : State) : (writeReg r v s).n = s.n := rfl
@[simp] theorem writeReg_len (r : Reg) (v : Cplx) (s : State) : (writeReg r v s).len = s.len := rfl
@[simp] theorem writeReg_errinfo (r : Reg) (v : Cplx) (s : State) : (writeReg r v s).errinfo = s.errinfo := rfl
@[simp] theorem writeReg_pos (r : Reg) (v : Cplx) (s : State) : (writeReg r v s).pos = s.pos := rfl
@[simp] theorem writeReg_cmdw (r : Reg) (v : Cplx) (s : State) : (writeReg r v s).cmdw = s.cmdw := rfl
@[simp] theorem writeReg_nl (r : Reg) (v : Cplx) (s : State) : (writeReg r v s).nl = s.nl := rfl
@[simp] theorem writeReg_ll (r : Reg) (v : Cplx) (s : State) : (writeReg r v s).ll = s.ll := rfl
@[simp] theorem writeReg_draws (r : Reg) (v : Cplx) (s : State) : (writeReg r v s).draws = s.draws := rfl
@[simp] theorem writeReg_script (r : Reg) (v : Cplx) (s : State) : (writeReg r v s).script = s.script := rfl
@[simp] theorem writeReg_held (r : Reg) (v : Cplx) (s : State) : (writeReg r v s).held = s.held := rfl
@[simp] theorem writeReg_schedule (r : Reg) (v : Cplx) (s : State) : (writeReg r v s).schedule = s.schedule := rfl
@[simp] theorem writeReg_responses (r : Reg) (v : Cplx) (s : State) : (writeReg r v s).responses = s.responses := rfl

/-! ### `raiseFault` -/

@[simp] theorem raiseFault_params (c : Cause) (info : Word32) (s : State) : (raiseFault c info s).params = s.params := rfl
@[simp] theorem raiseFault_cregs (c : Cause) (info : Word32) (s : State) : (raiseFault c info s).cregs = s.cregs := rfl
@[simp] theorem raiseFault_mem (c : Cause) (info : Word32) (s : State) : (raiseFault c info s).mem = s.mem := rfl
@[simp] theorem raiseFault_busy (c : Cause) (info : Word32) (s : State) : (raiseFault c info s).busy = s.busy := rfl
@[simp] theorem raiseFault_done (c : Cause) (info : Word32) (s : State) : (raiseFault c info s).done = false := rfl
@[simp] theorem raiseFault_err (c : Cause) (info : Word32) (s : State) : (raiseFault c info s).err = true := rfl
@[simp] theorem raiseFault_cause (c : Cause) (info : Word32) (s : State) : (raiseFault c info s).cause = c.code := rfl
@[simp] theorem raiseFault_ie (c : Cause) (info : Word32) (s : State) : (raiseFault c info s).ie = s.ie := rfl
@[simp] theorem raiseFault_n (c : Cause) (info : Word32) (s : State) : (raiseFault c info s).n = s.n := rfl
@[simp] theorem raiseFault_len (c : Cause) (info : Word32) (s : State) : (raiseFault c info s).len = s.len := rfl
@[simp] theorem raiseFault_errinfo (c : Cause) (info : Word32) (s : State) : (raiseFault c info s).errinfo = info := rfl
@[simp] theorem raiseFault_pos (c : Cause) (info : Word32) (s : State) : (raiseFault c info s).pos = s.pos := rfl
@[simp] theorem raiseFault_cmdw (c : Cause) (info : Word32) (s : State) : (raiseFault c info s).cmdw = s.cmdw := rfl
@[simp] theorem raiseFault_nl (c : Cause) (info : Word32) (s : State) : (raiseFault c info s).nl = s.nl := rfl
@[simp] theorem raiseFault_ll (c : Cause) (info : Word32) (s : State) : (raiseFault c info s).ll = s.ll := rfl
@[simp] theorem raiseFault_draws (c : Cause) (info : Word32) (s : State) : (raiseFault c info s).draws = s.draws := rfl
@[simp] theorem raiseFault_script (c : Cause) (info : Word32) (s : State) : (raiseFault c info s).script = s.script := rfl
@[simp] theorem raiseFault_held (c : Cause) (info : Word32) (s : State) : (raiseFault c info s).held = s.held := rfl
@[simp] theorem raiseFault_schedule (c : Cause) (info : Word32) (s : State) : (raiseFault c info s).schedule = s.schedule := rfl
@[simp] theorem raiseFault_responses (c : Cause) (info : Word32) (s : State) : (raiseFault c info s).responses = s.responses := rfl

/-! ### `clearRecord` -/

@[simp] theorem clearRecord_params (s : State) : (clearRecord s).params = s.params := rfl
@[simp] theorem clearRecord_cregs (s : State) : (clearRecord s).cregs = s.cregs := rfl
@[simp] theorem clearRecord_mem (s : State) : (clearRecord s).mem = s.mem := rfl
@[simp] theorem clearRecord_busy (s : State) : (clearRecord s).busy = s.busy := rfl
@[simp] theorem clearRecord_done (s : State) : (clearRecord s).done = false := rfl
@[simp] theorem clearRecord_err (s : State) : (clearRecord s).err = false := rfl
@[simp] theorem clearRecord_cause (s : State) : (clearRecord s).cause = 0 := rfl
@[simp] theorem clearRecord_ie (s : State) : (clearRecord s).ie = s.ie := rfl
@[simp] theorem clearRecord_n (s : State) : (clearRecord s).n = s.n := rfl
@[simp] theorem clearRecord_len (s : State) : (clearRecord s).len = s.len := rfl
@[simp] theorem clearRecord_errinfo (s : State) : (clearRecord s).errinfo = 0 := rfl
@[simp] theorem clearRecord_pos (s : State) : (clearRecord s).pos = s.pos := rfl
@[simp] theorem clearRecord_cmdw (s : State) : (clearRecord s).cmdw = s.cmdw := rfl
@[simp] theorem clearRecord_nl (s : State) : (clearRecord s).nl = s.nl := rfl
@[simp] theorem clearRecord_ll (s : State) : (clearRecord s).ll = s.ll := rfl
@[simp] theorem clearRecord_draws (s : State) : (clearRecord s).draws = s.draws := rfl
@[simp] theorem clearRecord_script (s : State) : (clearRecord s).script = s.script := rfl
@[simp] theorem clearRecord_held (s : State) : (clearRecord s).held = s.held := rfl
@[simp] theorem clearRecord_schedule (s : State) : (clearRecord s).schedule = s.schedule := rfl
@[simp] theorem clearRecord_responses (s : State) : (clearRecord s).responses = s.responses := rfl

/-! ### `accept` -/

@[simp] theorem accept_params (w : Word32) (s : State) : (accept w s).params = s.params := rfl
@[simp] theorem accept_cregs (w : Word32) (s : State) : (accept w s).cregs = s.cregs := rfl
@[simp] theorem accept_mem (w : Word32) (s : State) : (accept w s).mem = s.mem := rfl
@[simp] theorem accept_busy (w : Word32) (s : State) : (accept w s).busy = true := rfl
@[simp] theorem accept_done (w : Word32) (s : State) : (accept w s).done = false := rfl
@[simp] theorem accept_err (w : Word32) (s : State) : (accept w s).err = s.err := rfl
@[simp] theorem accept_cause (w : Word32) (s : State) : (accept w s).cause = s.cause := rfl
@[simp] theorem accept_ie (w : Word32) (s : State) : (accept w s).ie = s.ie := rfl
@[simp] theorem accept_n (w : Word32) (s : State) : (accept w s).n = s.n := rfl
@[simp] theorem accept_len (w : Word32) (s : State) : (accept w s).len = s.len := rfl
@[simp] theorem accept_errinfo (w : Word32) (s : State) : (accept w s).errinfo = s.errinfo := rfl
@[simp] theorem accept_pos (w : Word32) (s : State) : (accept w s).pos = 0 := rfl
@[simp] theorem accept_cmdw (w : Word32) (s : State) : (accept w s).cmdw = w := rfl
@[simp] theorem accept_nl (w : Word32) (s : State) : (accept w s).nl = s.n := rfl
@[simp] theorem accept_ll (w : Word32) (s : State) : (accept w s).ll = s.len := rfl
@[simp] theorem accept_draws (w : Word32) (s : State) : (accept w s).draws = s.draws := rfl
@[simp] theorem accept_script (w : Word32) (s : State) : (accept w s).script = s.script := rfl
@[simp] theorem accept_held (w : Word32) (s : State) : (accept w s).held = s.held := rfl
@[simp] theorem accept_schedule (w : Word32) (s : State) : (accept w s).schedule = s.schedule := rfl
@[simp] theorem accept_responses (w : Word32) (s : State) : (accept w s).responses = s.responses := rfl

/-! ### `advance` -/

@[simp] theorem advance_params (s : State) : (advance s).params = s.params := rfl
@[simp] theorem advance_cregs (s : State) : (advance s).cregs = s.cregs := rfl
@[simp] theorem advance_mem (s : State) : (advance s).mem = s.mem := rfl
@[simp] theorem advance_busy (s : State) : (advance s).busy = s.busy := rfl
@[simp] theorem advance_done (s : State) : (advance s).done = s.done := rfl
@[simp] theorem advance_err (s : State) : (advance s).err = s.err := rfl
@[simp] theorem advance_cause (s : State) : (advance s).cause = s.cause := rfl
@[simp] theorem advance_ie (s : State) : (advance s).ie = s.ie := rfl
@[simp] theorem advance_n (s : State) : (advance s).n = s.n := rfl
@[simp] theorem advance_len (s : State) : (advance s).len = s.len := rfl
@[simp] theorem advance_errinfo (s : State) : (advance s).errinfo = s.errinfo := rfl
@[simp] theorem advance_pos (s : State) : (advance s).pos = s.pos + 1 := rfl
@[simp] theorem advance_cmdw (s : State) : (advance s).cmdw = s.cmdw := rfl
@[simp] theorem advance_nl (s : State) : (advance s).nl = s.nl := rfl
@[simp] theorem advance_ll (s : State) : (advance s).ll = s.ll := rfl
@[simp] theorem advance_draws (s : State) : (advance s).draws = s.draws := rfl
@[simp] theorem advance_script (s : State) : (advance s).script = s.script := rfl
@[simp] theorem advance_held (s : State) : (advance s).held = s.held := rfl
@[simp] theorem advance_schedule (s : State) : (advance s).schedule = s.schedule := rfl
@[simp] theorem advance_responses (s : State) : (advance s).responses = s.responses := rfl

/-! ### `retire` -/

@[simp] theorem retire_params (s : State) : (retire s).params = s.params := rfl
@[simp] theorem retire_cregs (s : State) : (retire s).cregs = s.cregs := rfl
@[simp] theorem retire_mem (s : State) : (retire s).mem = s.mem := rfl
@[simp] theorem retire_busy (s : State) : (retire s).busy = false := rfl
@[simp] theorem retire_done (s : State) : (retire s).done = true := rfl
@[simp] theorem retire_err (s : State) : (retire s).err = s.err := rfl
@[simp] theorem retire_cause (s : State) : (retire s).cause = s.cause := rfl
@[simp] theorem retire_ie (s : State) : (retire s).ie = s.ie := rfl
@[simp] theorem retire_n (s : State) : (retire s).n = s.n := rfl
@[simp] theorem retire_len (s : State) : (retire s).len = s.len := rfl
@[simp] theorem retire_errinfo (s : State) : (retire s).errinfo = s.errinfo := rfl
@[simp] theorem retire_pos (s : State) : (retire s).pos = s.pos := rfl
@[simp] theorem retire_cmdw (s : State) : (retire s).cmdw = s.cmdw := rfl
@[simp] theorem retire_nl (s : State) : (retire s).nl = s.nl := rfl
@[simp] theorem retire_ll (s : State) : (retire s).ll = s.ll := rfl
@[simp] theorem retire_draws (s : State) : (retire s).draws = s.draws := rfl
@[simp] theorem retire_script (s : State) : (retire s).script = s.script := rfl
@[simp] theorem retire_held (s : State) : (retire s).held = s.held := rfl
@[simp] theorem retire_schedule (s : State) : (retire s).schedule = s.schedule := rfl
@[simp] theorem retire_responses (s : State) : (retire s).responses = s.responses := rfl

/-! ### `respond` -/

@[simp] theorem respond_params (r : Response) (s : State) : (respond r s).params = s.params := rfl
@[simp] theorem respond_cregs (r : Response) (s : State) : (respond r s).cregs = s.cregs := rfl
@[simp] theorem respond_mem (r : Response) (s : State) : (respond r s).mem = s.mem := rfl
@[simp] theorem respond_busy (r : Response) (s : State) : (respond r s).busy = s.busy := rfl
@[simp] theorem respond_done (r : Response) (s : State) : (respond r s).done = s.done := rfl
@[simp] theorem respond_err (r : Response) (s : State) : (respond r s).err = s.err := rfl
@[simp] theorem respond_cause (r : Response) (s : State) : (respond r s).cause = s.cause := rfl
@[simp] theorem respond_ie (r : Response) (s : State) : (respond r s).ie = s.ie := rfl
@[simp] theorem respond_n (r : Response) (s : State) : (respond r s).n = s.n := rfl
@[simp] theorem respond_len (r : Response) (s : State) : (respond r s).len = s.len := rfl
@[simp] theorem respond_errinfo (r : Response) (s : State) : (respond r s).errinfo = s.errinfo := rfl
@[simp] theorem respond_pos (r : Response) (s : State) : (respond r s).pos = s.pos := rfl
@[simp] theorem respond_cmdw (r : Response) (s : State) : (respond r s).cmdw = s.cmdw := rfl
@[simp] theorem respond_nl (r : Response) (s : State) : (respond r s).nl = s.nl := rfl
@[simp] theorem respond_ll (r : Response) (s : State) : (respond r s).ll = s.ll := rfl
@[simp] theorem respond_draws (r : Response) (s : State) : (respond r s).draws = s.draws := rfl
@[simp] theorem respond_script (r : Response) (s : State) : (respond r s).script = s.script := rfl
@[simp] theorem respond_held (r : Response) (s : State) : (respond r s).held = s.held := rfl
@[simp] theorem respond_schedule (r : Response) (s : State) : (respond r s).schedule = s.schedule := rfl
@[simp] theorem respond_responses (r : Response) (s : State) : (respond r s).responses = s.responses ++ [r] := rfl

/-! ### `popSchedule` -/

@[simp] theorem popSchedule_params (s : State) : (popSchedule s).params = s.params := rfl
@[simp] theorem popSchedule_cregs (s : State) : (popSchedule s).cregs = s.cregs := rfl
@[simp] theorem popSchedule_mem (s : State) : (popSchedule s).mem = s.mem := rfl
@[simp] theorem popSchedule_busy (s : State) : (popSchedule s).busy = s.busy := rfl
@[simp] theorem popSchedule_done (s : State) : (popSchedule s).done = s.done := rfl
@[simp] theorem popSchedule_err (s : State) : (popSchedule s).err = s.err := rfl
@[simp] theorem popSchedule_cause (s : State) : (popSchedule s).cause = s.cause := rfl
@[simp] theorem popSchedule_ie (s : State) : (popSchedule s).ie = s.ie := rfl
@[simp] theorem popSchedule_n (s : State) : (popSchedule s).n = s.n := rfl
@[simp] theorem popSchedule_len (s : State) : (popSchedule s).len = s.len := rfl
@[simp] theorem popSchedule_errinfo (s : State) : (popSchedule s).errinfo = s.errinfo := rfl
@[simp] theorem popSchedule_pos (s : State) : (popSchedule s).pos = s.pos := rfl
@[simp] theorem popSchedule_cmdw (s : State) : (popSchedule s).cmdw = s.cmdw := rfl
@[simp] theorem popSchedule_nl (s : State) : (popSchedule s).nl = s.nl := rfl
@[simp] theorem popSchedule_ll (s : State) : (popSchedule s).ll = s.ll := rfl
@[simp] theorem popSchedule_draws (s : State) : (popSchedule s).draws = s.draws := rfl
@[simp] theorem popSchedule_script (s : State) : (popSchedule s).script = s.script := rfl
@[simp] theorem popSchedule_held (s : State) : (popSchedule s).held = s.held := rfl
@[simp] theorem popSchedule_schedule (s : State) : (popSchedule s).schedule = s.schedule.tail := rfl
@[simp] theorem popSchedule_responses (s : State) : (popSchedule s).responses = s.responses := rfl

/-! ### `microSetn` -/

@[simp] theorem microSetn_params (v : Word32) (s : State) : (microSetn v s).params = s.params := rfl
@[simp] theorem microSetn_cregs (v : Word32) (s : State) : (microSetn v s).cregs = s.cregs := rfl
@[simp] theorem microSetn_mem (v : Word32) (s : State) : (microSetn v s).mem = s.mem := rfl
@[simp] theorem microSetn_busy (v : Word32) (s : State) : (microSetn v s).busy = s.busy := rfl
@[simp] theorem microSetn_done (v : Word32) (s : State) : (microSetn v s).done = s.done := rfl
@[simp] theorem microSetn_err (v : Word32) (s : State) : (microSetn v s).err = s.err := rfl
@[simp] theorem microSetn_cause (v : Word32) (s : State) : (microSetn v s).cause = s.cause := rfl
@[simp] theorem microSetn_ie (v : Word32) (s : State) : (microSetn v s).ie = s.ie := rfl
@[simp] theorem microSetn_n (v : Word32) (s : State) : (microSetn v s).n = v := rfl
@[simp] theorem microSetn_len (v : Word32) (s : State) : (microSetn v s).len = s.len := rfl
@[simp] theorem microSetn_errinfo (v : Word32) (s : State) : (microSetn v s).errinfo = s.errinfo := rfl
@[simp] theorem microSetn_pos (v : Word32) (s : State) : (microSetn v s).pos = s.pos := rfl
@[simp] theorem microSetn_cmdw (v : Word32) (s : State) : (microSetn v s).cmdw = s.cmdw := rfl
@[simp] theorem microSetn_nl (v : Word32) (s : State) : (microSetn v s).nl = s.nl := rfl
@[simp] theorem microSetn_ll (v : Word32) (s : State) : (microSetn v s).ll = s.ll := rfl
@[simp] theorem microSetn_draws (v : Word32) (s : State) : (microSetn v s).draws = s.draws := rfl
@[simp] theorem microSetn_script (v : Word32) (s : State) : (microSetn v s).script = s.script := rfl
@[simp] theorem microSetn_held (v : Word32) (s : State) : (microSetn v s).held = s.held := rfl
@[simp] theorem microSetn_schedule (v : Word32) (s : State) : (microSetn v s).schedule = s.schedule := rfl
@[simp] theorem microSetn_responses (v : Word32) (s : State) : (microSetn v s).responses = s.responses := rfl

/-! ### `readWord2`: only the count of draws may change -/

@[simp] theorem readWord2_params (j : Nat) (s : State) : (readWord j s).2.params = s.params := by
  unfold readWord; split <;> rfl
@[simp] theorem readWord2_cregs (j : Nat) (s : State) : (readWord j s).2.cregs = s.cregs := by
  unfold readWord; split <;> rfl
@[simp] theorem readWord2_mem (j : Nat) (s : State) : (readWord j s).2.mem = s.mem := by
  unfold readWord; split <;> rfl
@[simp] theorem readWord2_busy (j : Nat) (s : State) : (readWord j s).2.busy = s.busy := by
  unfold readWord; split <;> rfl
@[simp] theorem readWord2_done (j : Nat) (s : State) : (readWord j s).2.done = s.done := by
  unfold readWord; split <;> rfl
@[simp] theorem readWord2_err (j : Nat) (s : State) : (readWord j s).2.err = s.err := by
  unfold readWord; split <;> rfl
@[simp] theorem readWord2_cause (j : Nat) (s : State) : (readWord j s).2.cause = s.cause := by
  unfold readWord; split <;> rfl
@[simp] theorem readWord2_ie (j : Nat) (s : State) : (readWord j s).2.ie = s.ie := by
  unfold readWord; split <;> rfl
@[simp] theorem readWord2_n (j : Nat) (s : State) : (readWord j s).2.n = s.n := by
  unfold readWord; split <;> rfl
@[simp] theorem readWord2_len (j : Nat) (s : State) : (readWord j s).2.len = s.len := by
  unfold readWord; split <;> rfl
@[simp] theorem readWord2_errinfo (j : Nat) (s : State) : (readWord j s).2.errinfo = s.errinfo := by
  unfold readWord; split <;> rfl
@[simp] theorem readWord2_pos (j : Nat) (s : State) : (readWord j s).2.pos = s.pos := by
  unfold readWord; split <;> rfl
@[simp] theorem readWord2_cmdw (j : Nat) (s : State) : (readWord j s).2.cmdw = s.cmdw := by
  unfold readWord; split <;> rfl
@[simp] theorem readWord2_nl (j : Nat) (s : State) : (readWord j s).2.nl = s.nl := by
  unfold readWord; split <;> rfl
@[simp] theorem readWord2_ll (j : Nat) (s : State) : (readWord j s).2.ll = s.ll := by
  unfold readWord; split <;> rfl
@[simp] theorem readWord2_script (j : Nat) (s : State) : (readWord j s).2.script = s.script := by
  unfold readWord; split <;> rfl
@[simp] theorem readWord2_held (j : Nat) (s : State) : (readWord j s).2.held = s.held := by
  unfold readWord; split <;> rfl
@[simp] theorem readWord2_schedule (j : Nat) (s : State) : (readWord j s).2.schedule = s.schedule := by
  unfold readWord; split <;> rfl
@[simp] theorem readWord2_responses (j : Nat) (s : State) : (readWord j s).2.responses = s.responses := by
  unfold readWord; split <;> rfl

/-! ### `readEntry2`: only the count of draws may change -/

@[simp] theorem readEntry2_params (i : Nat) (s : State) : (readEntry i s).2.params = s.params := by
  simp [readEntry]
@[simp] theorem readEntry2_cregs (i : Nat) (s : State) : (readEntry i s).2.cregs = s.cregs := by
  simp [readEntry]
@[simp] theorem readEntry2_mem (i : Nat) (s : State) : (readEntry i s).2.mem = s.mem := by
  simp [readEntry]
@[simp] theorem readEntry2_busy (i : Nat) (s : State) : (readEntry i s).2.busy = s.busy := by
  simp [readEntry]
@[simp] theorem readEntry2_done (i : Nat) (s : State) : (readEntry i s).2.done = s.done := by
  simp [readEntry]
@[simp] theorem readEntry2_err (i : Nat) (s : State) : (readEntry i s).2.err = s.err := by
  simp [readEntry]
@[simp] theorem readEntry2_cause (i : Nat) (s : State) : (readEntry i s).2.cause = s.cause := by
  simp [readEntry]
@[simp] theorem readEntry2_ie (i : Nat) (s : State) : (readEntry i s).2.ie = s.ie := by
  simp [readEntry]
@[simp] theorem readEntry2_n (i : Nat) (s : State) : (readEntry i s).2.n = s.n := by
  simp [readEntry]
@[simp] theorem readEntry2_len (i : Nat) (s : State) : (readEntry i s).2.len = s.len := by
  simp [readEntry]
@[simp] theorem readEntry2_errinfo (i : Nat) (s : State) : (readEntry i s).2.errinfo = s.errinfo := by
  simp [readEntry]
@[simp] theorem readEntry2_pos (i : Nat) (s : State) : (readEntry i s).2.pos = s.pos := by
  simp [readEntry]
@[simp] theorem readEntry2_cmdw (i : Nat) (s : State) : (readEntry i s).2.cmdw = s.cmdw := by
  simp [readEntry]
@[simp] theorem readEntry2_nl (i : Nat) (s : State) : (readEntry i s).2.nl = s.nl := by
  simp [readEntry]
@[simp] theorem readEntry2_ll (i : Nat) (s : State) : (readEntry i s).2.ll = s.ll := by
  simp [readEntry]
@[simp] theorem readEntry2_script (i : Nat) (s : State) : (readEntry i s).2.script = s.script := by
  simp [readEntry]
@[simp] theorem readEntry2_held (i : Nat) (s : State) : (readEntry i s).2.held = s.held := by
  simp [readEntry]
@[simp] theorem readEntry2_schedule (i : Nat) (s : State) : (readEntry i s).2.schedule = s.schedule := by
  simp [readEntry]
@[simp] theorem readEntry2_responses (i : Nat) (s : State) : (readEntry i s).2.responses = s.responses := by
  simp [readEntry]

/-! ### `readReg2`: only the count of draws may change -/

@[simp] theorem readReg2_params (r : Reg) (s : State) : (readReg r s).2.params = s.params := by
  unfold readReg; split <;> rfl
@[simp] theorem readReg2_cregs (r : Reg) (s : State) : (readReg r s).2.cregs = s.cregs := by
  unfold readReg; split <;> rfl
@[simp] theorem readReg2_mem (r : Reg) (s : State) : (readReg r s).2.mem = s.mem := by
  unfold readReg; split <;> rfl
@[simp] theorem readReg2_busy (r : Reg) (s : State) : (readReg r s).2.busy = s.busy := by
  unfold readReg; split <;> rfl
@[simp] theorem readReg2_done (r : Reg) (s : State) : (readReg r s).2.done = s.done := by
  unfold readReg; split <;> rfl
@[simp] theorem readReg2_err (r : Reg) (s : State) : (readReg r s).2.err = s.err := by
  unfold readReg; split <;> rfl
@[simp] theorem readReg2_cause (r : Reg) (s : State) : (readReg r s).2.cause = s.cause := by
  unfold readReg; split <;> rfl
@[simp] theorem readReg2_ie (r : Reg) (s : State) : (readReg r s).2.ie = s.ie := by
  unfold readReg; split <;> rfl
@[simp] theorem readReg2_n (r : Reg) (s : State) : (readReg r s).2.n = s.n := by
  unfold readReg; split <;> rfl
@[simp] theorem readReg2_len (r : Reg) (s : State) : (readReg r s).2.len = s.len := by
  unfold readReg; split <;> rfl
@[simp] theorem readReg2_errinfo (r : Reg) (s : State) : (readReg r s).2.errinfo = s.errinfo := by
  unfold readReg; split <;> rfl
@[simp] theorem readReg2_pos (r : Reg) (s : State) : (readReg r s).2.pos = s.pos := by
  unfold readReg; split <;> rfl
@[simp] theorem readReg2_cmdw (r : Reg) (s : State) : (readReg r s).2.cmdw = s.cmdw := by
  unfold readReg; split <;> rfl
@[simp] theorem readReg2_nl (r : Reg) (s : State) : (readReg r s).2.nl = s.nl := by
  unfold readReg; split <;> rfl
@[simp] theorem readReg2_ll (r : Reg) (s : State) : (readReg r s).2.ll = s.ll := by
  unfold readReg; split <;> rfl
@[simp] theorem readReg2_script (r : Reg) (s : State) : (readReg r s).2.script = s.script := by
  unfold readReg; split <;> rfl
@[simp] theorem readReg2_held (r : Reg) (s : State) : (readReg r s).2.held = s.held := by
  unfold readReg; split <;> rfl
@[simp] theorem readReg2_schedule (r : Reg) (s : State) : (readReg r s).2.schedule = s.schedule := by
  unfold readReg; split <;> rfl
@[simp] theorem readReg2_responses (r : Reg) (s : State) : (readReg r s).2.responses = s.responses := by
  unfold readReg; split <;> rfl

/-! ### `writeEntry` -/

@[simp] theorem writeEntry_params (i : Nat) (v : Cplx) (s : State) : (writeEntry i v s).params = s.params := rfl
@[simp] theorem writeEntry_cregs (i : Nat) (v : Cplx) (s : State) : (writeEntry i v s).cregs = s.cregs := rfl
@[simp] theorem writeEntry_mem (i : Nat) (v : Cplx) (s : State) : (writeEntry i v s).mem = (s.mem.write (2 * i) v.re).write (2 * i + 1) v.im := rfl
@[simp] theorem writeEntry_busy (i : Nat) (v : Cplx) (s : State) : (writeEntry i v s).busy = s.busy := rfl
@[simp] theorem writeEntry_done (i : Nat) (v : Cplx) (s : State) : (writeEntry i v s).done = s.done := rfl
@[simp] theorem writeEntry_err (i : Nat) (v : Cplx) (s : State) : (writeEntry i v s).err = s.err := rfl
@[simp] theorem writeEntry_cause (i : Nat) (v : Cplx) (s : State) : (writeEntry i v s).cause = s.cause := rfl
@[simp] theorem writeEntry_ie (i : Nat) (v : Cplx) (s : State) : (writeEntry i v s).ie = s.ie := rfl
@[simp] theorem writeEntry_n (i : Nat) (v : Cplx) (s : State) : (writeEntry i v s).n = s.n := rfl
@[simp] theorem writeEntry_len (i : Nat) (v : Cplx) (s : State) : (writeEntry i v s).len = s.len := rfl
@[simp] theorem writeEntry_errinfo (i : Nat) (v : Cplx) (s : State) : (writeEntry i v s).errinfo = s.errinfo := rfl
@[simp] theorem writeEntry_pos (i : Nat) (v : Cplx) (s : State) : (writeEntry i v s).pos = s.pos := rfl
@[simp] theorem writeEntry_cmdw (i : Nat) (v : Cplx) (s : State) : (writeEntry i v s).cmdw = s.cmdw := rfl
@[simp] theorem writeEntry_nl (i : Nat) (v : Cplx) (s : State) : (writeEntry i v s).nl = s.nl := rfl
@[simp] theorem writeEntry_ll (i : Nat) (v : Cplx) (s : State) : (writeEntry i v s).ll = s.ll := rfl
@[simp] theorem writeEntry_draws (i : Nat) (v : Cplx) (s : State) : (writeEntry i v s).draws = s.draws := rfl
@[simp] theorem writeEntry_script (i : Nat) (v : Cplx) (s : State) : (writeEntry i v s).script = s.script := rfl
@[simp] theorem writeEntry_held (i : Nat) (v : Cplx) (s : State) : (writeEntry i v s).held = s.held := rfl
@[simp] theorem writeEntry_schedule (i : Nat) (v : Cplx) (s : State) : (writeEntry i v s).schedule = s.schedule := rfl
@[simp] theorem writeEntry_responses (i : Nat) (v : Cplx) (s : State) : (writeEntry i v s).responses = s.responses := rfl

/-! ### `writeCtrl` -/

@[simp] theorem writeCtrl_params (v : Word32) (s : State) : (writeCtrl v s).params = s.params := by
  unfold writeCtrl; split <;> rfl
@[simp] theorem writeCtrl_cregs (v : Word32) (s : State) : (writeCtrl v s).cregs = s.cregs := by
  unfold writeCtrl; split <;> rfl
@[simp] theorem writeCtrl_mem (v : Word32) (s : State) : (writeCtrl v s).mem = s.mem := by
  unfold writeCtrl; split <;> rfl
@[simp] theorem writeCtrl_busy (v : Word32) (s : State) : (writeCtrl v s).busy = s.busy := by
  unfold writeCtrl; split <;> rfl
@[simp] theorem writeCtrl_done (v : Word32) (s : State) :
    (writeCtrl v s).done = if v.getLsbD 1 then false else s.done := by
  unfold writeCtrl; split <;> rfl
@[simp] theorem writeCtrl_err (v : Word32) (s : State) :
    (writeCtrl v s).err = if v.getLsbD 1 then false else s.err := by
  unfold writeCtrl; split <;> rfl
@[simp] theorem writeCtrl_cause (v : Word32) (s : State) :
    (writeCtrl v s).cause = if v.getLsbD 1 then 0 else s.cause := by
  unfold writeCtrl; split <;> rfl
@[simp] theorem writeCtrl_ie (v : Word32) (s : State) : (writeCtrl v s).ie = v.getLsbD 0 := rfl
@[simp] theorem writeCtrl_n (v : Word32) (s : State) : (writeCtrl v s).n = s.n := by
  unfold writeCtrl; split <;> rfl
@[simp] theorem writeCtrl_len (v : Word32) (s : State) : (writeCtrl v s).len = s.len := by
  unfold writeCtrl; split <;> rfl
@[simp] theorem writeCtrl_errinfo (v : Word32) (s : State) :
    (writeCtrl v s).errinfo = if v.getLsbD 1 then 0 else s.errinfo := by
  unfold writeCtrl; split <;> rfl
@[simp] theorem writeCtrl_pos (v : Word32) (s : State) : (writeCtrl v s).pos = s.pos := by
  unfold writeCtrl; split <;> rfl
@[simp] theorem writeCtrl_cmdw (v : Word32) (s : State) : (writeCtrl v s).cmdw = s.cmdw := by
  unfold writeCtrl; split <;> rfl
@[simp] theorem writeCtrl_nl (v : Word32) (s : State) : (writeCtrl v s).nl = s.nl := by
  unfold writeCtrl; split <;> rfl
@[simp] theorem writeCtrl_ll (v : Word32) (s : State) : (writeCtrl v s).ll = s.ll := by
  unfold writeCtrl; split <;> rfl
@[simp] theorem writeCtrl_draws (v : Word32) (s : State) : (writeCtrl v s).draws = s.draws := by
  unfold writeCtrl; split <;> rfl
@[simp] theorem writeCtrl_script (v : Word32) (s : State) : (writeCtrl v s).script = s.script := by
  unfold writeCtrl; split <;> rfl
@[simp] theorem writeCtrl_held (v : Word32) (s : State) : (writeCtrl v s).held = s.held := by
  unfold writeCtrl; split <;> rfl
@[simp] theorem writeCtrl_schedule (v : Word32) (s : State) : (writeCtrl v s).schedule = s.schedule := by
  unfold writeCtrl; split <;> rfl
@[simp] theorem writeCtrl_responses (v : Word32) (s : State) : (writeCtrl v s).responses = s.responses := by
  unfold writeCtrl; split <;> rfl

theorem wordCount_of_params {s t : State} (h : t.params = s.params) : t.wordCount = s.wordCount := by
  unfold State.wordCount; rw [h]

end Sys2Proof.Machine
end

