-- ==== Sys2Proof/Laws/Memory.lean ====
section
/-! SUPPORT. The laws of data memory: a read after a write, every other word alone, and the canonical
form kept by every memory operation. -/

namespace Sys2Proof.Machine

@[simp] theorem lookup_nil (j : Nat) : Memory.lookup [] j = none := rfl

theorem lookup_cons (a : Nat) (u : F64) (m : Memory) (j : Nat) :
    Memory.lookup ((a, u) :: m) j = if j = a then some u else Memory.lookup m j := rfl

/-- A word reads as what was last written to it. -/
@[simp] theorem lookup_write_same (m : Memory) (j : Nat) (v : F64) :
    (Memory.write m j v).lookup j = some v := by
  induction m with
  | nil => simp [Memory.write, lookup_cons]
  | cons c m ih =>
    obtain ⟨a, u⟩ := c
    unfold Memory.write
    split
    · simp [lookup_cons]
    · split
      · simp [lookup_cons]
      · rw [lookup_cons, if_neg ‹_›, ih]

/-- A write leaves every other word alone. -/
@[simp] theorem lookup_write_other (m : Memory) {j j' : Nat} (v : F64) (h : j' ≠ j) :
    (Memory.write m j v).lookup j' = m.lookup j' := by
  induction m with
  | nil => simp [Memory.write, lookup_cons, h]
  | cons c m ih =>
    obtain ⟨a, u⟩ := c
    unfold Memory.write
    split
    · rw [lookup_cons, if_neg h]
    · split
      · subst j
        rw [lookup_cons, lookup_cons, if_neg h, if_neg h]
      · rw [lookup_cons, lookup_cons, ih]

theorem lookup_write (m : Memory) (j j' : Nat) (v : F64) :
    (Memory.write m j v).lookup j' = if j' = j then some v else m.lookup j' := by
  split
  · subst j'; simp
  · simp [*]

/-- What a written memory lists. -/
theorem mem_write {m : Memory} {j : Nat} {v : F64} {c : Nat × F64} (h : c ∈ Memory.write m j v) :
    c = (j, v) ∨ c ∈ m := by
  induction m with
  | nil => simpa [Memory.write] using h
  | cons d m ih =>
    obtain ⟨a, u⟩ := d
    unfold Memory.write at h
    split at h
    · rcases List.mem_cons.1 h with h | h
      · exact .inl h
      · exact .inr h
    · split at h
      · rcases List.mem_cons.1 h with h | h
        · exact .inl h
        · exact .inr (List.mem_cons_of_mem _ h)
      · rcases List.mem_cons.1 h with h | h
        · exact .inr (h ▸ List.mem_cons_self)
        · rcases ih h with h | h
          · exact .inl h
          · exact .inr (List.mem_cons_of_mem _ h)

theorem write_sorted (m : Memory) (j : Nat) (v : F64) (h : (m.map Prod.fst).Pairwise (· < ·)) :
    ((Memory.write m j v).map Prod.fst).Pairwise (· < ·) := by
  induction m with
  | nil => simp [Memory.write]
  | cons d m ih =>
    obtain ⟨a, u⟩ := d
    rw [List.map_cons, List.pairwise_cons] at h
    obtain ⟨h1, h2⟩ := h
    have hkey : ∀ c ∈ m, a < c.1 := fun c hc => h1 _ (List.mem_map_of_mem hc)
    unfold Memory.write
    split
    · rw [List.map_cons, List.map_cons, List.pairwise_cons, List.pairwise_cons]
      refine ⟨?_, h1, h2⟩
      intro b hb
      rcases List.mem_cons.1 hb with hb | hb
      · subst hb; assumption
      · exact lt_trans ‹_› (h1 b hb)
    · split
      · subst j
        rw [List.map_cons, List.pairwise_cons]
        exact ⟨h1, h2⟩
      · rw [List.map_cons, List.pairwise_cons]
        refine ⟨?_, ih h2⟩
        intro b hb
        obtain ⟨c, hc, rfl⟩ := List.mem_map.1 hb
        rcases mem_write hc with rfl | hc
        · show a < j
          omega
        · exact hkey c hc

/-- A write of a word that exists keeps the canonical form. -/
theorem write_wf {bound : Nat} {m : Memory} (j : Nat) (v : F64) (hj : j < bound)
    (h : m.wf bound) : (Memory.write m j v).wf bound := by
  refine ⟨write_sorted m j v h.1, fun c hc => ?_⟩
  rcases mem_write hc with rfl | hc
  · exact hj
  · exact h.2 c hc

theorem nil_wf (bound : Nat) : Memory.wf bound [] := by simp [Memory.wf]

/-- A write of an entry that exists keeps the canonical form. -/
theorem writeEntry_wf {s : State} (i : Nat) (v : Cplx) (hi : i < s.params.nmax)
    (h : s.mem.wf s.wordCount) : (writeEntry i v s).mem.wf s.wordCount := by
  have : 2 * i + 1 < s.wordCount := by unfold State.wordCount; omega
  exact write_wf _ _ this (write_wf _ _ (by omega) h)

theorem lookup_eq_some_mem {m : Memory} {j : Nat} {v : F64} (h : m.lookup j = some v) :
    (j, v) ∈ m := by
  induction m with
  | nil => simp at h
  | cons c m ih =>
    obtain ⟨a, u⟩ := c
    rw [lookup_cons] at h
    split at h
    · simp_all
    · exact List.mem_cons_of_mem _ (ih h)

/-- In the canonical form, no word that does not exist is listed. -/
theorem lookup_none_of_wf {bound : Nat} {m : Memory} {j : Nat} (h : m.wf bound) (hj : bound ≤ j) :
    m.lookup j = none := by
  cases hl : m.lookup j with
  | none => rfl
  | some v => exact absurd (h.2 _ (lookup_eq_some_mem hl)) (by simpa using hj)

theorem lookup_none_of_lt {m : Memory} {j : Nat} (h : ∀ c ∈ m, j < c.1) : m.lookup j = none := by
  cases hl : m.lookup j with
  | none => rfl
  | some v => exact absurd (h _ (lookup_eq_some_mem hl)) (by simp)

/-- Equal memories are equal lists: in the canonical form a memory is determined by what it reads as. -/
theorem ext_of_wf {b b' : Nat} {m m' : Memory} (h : m.wf b) (h' : m'.wf b')
    (he : ∀ j, m.lookup j = m'.lookup j) : m = m' := by
  obtain ⟨h, -⟩ := h
  obtain ⟨h', -⟩ := h'
  induction m generalizing m' with
  | nil =>
    cases m' with
    | nil => rfl
    | cons c m' =>
      have := he c.1
      rw [show c = (c.1, c.2) from rfl, lookup_cons] at this
      simp at this
  | cons c m ih =>
    obtain ⟨a, u⟩ := c
    cases m' with
    | nil => simpa [lookup_cons] using he a
    | cons c' m' =>
      obtain ⟨a', u'⟩ := c'
      rw [List.map_cons, List.pairwise_cons] at h h'
      have hk : ∀ c ∈ m, a < c.1 := fun c hc => h.1 _ (List.mem_map_of_mem hc)
      have hk' : ∀ c ∈ m', a' < c.1 := fun c hc => h'.1 _ (List.mem_map_of_mem hc)
      have haa : a = a' := by
        rcases lt_trichotomy a a' with hlt | heq | hlt
        · have := he a
          rw [lookup_cons, if_pos rfl, lookup_cons, if_neg hlt.ne,
            lookup_none_of_lt (fun c hc => lt_trans hlt (hk' c hc))] at this
          simp at this
        · exact heq
        · have := he a'
          rw [lookup_cons, if_neg hlt.ne, lookup_none_of_lt (fun c hc => lt_trans hlt (hk c hc)),
            lookup_cons, if_pos rfl] at this
          simp at this
      subst haa
      have huu : u = u' := by simpa [lookup_cons] using he a
      subst huu
      rw [ih (m' := m') ?_ h.2 h'.2]
      intro j
      by_cases hj : j = a
      · subst hj
        rw [lookup_none_of_lt hk, lookup_none_of_lt hk']
      · simpa [lookup_cons, hj] using he j

end Sys2Proof.Machine
end

