-- ==== Sys2Proof/Laws/Reads.lean ====
section
/-! SUPPORT. What the read operations answer: the value written, and no draw, where something has been
written since reset; a draw otherwise. -/

namespace Sys2Proof.Machine

theorem readWord_of_some {j : Nat} {s : State} {v : F64} (h : s.mem.lookup j = some v) :
    readWord j s = (v, s) := by
  unfold readWord; rw [h]

theorem readWord_of_none {j : Nat} {s : State} (h : s.mem.lookup j = none) :
    readWord j s = draw s := by
  unfold readWord; rw [h]

/-- A read of a word answers what is written there, if anything is. -/
theorem readWord_value {j : Nat} {s : State} {v : F64} (h : s.mem.lookup j = some v) :
    (readWord j s).1 = v := by
  rw [readWord_of_some h]

theorem readEntry_of_written {i : Nat} {s : State} {v w : F64} (h : s.mem.lookup (2 * i) = some v)
    (h' : s.mem.lookup (2 * i + 1) = some w) : readEntry i s = (⟨v, w⟩, s) := by
  simp only [readEntry, readWord_of_some h, readWord_of_some h']

/-- The real word of an entry read is the word written there, if any. -/
theorem readEntry_re {i : Nat} {s : State} {v : F64} (h : s.mem.lookup (2 * i) = some v) :
    (readEntry i s).1.re = v := readWord_value h

/-- The imaginary word of an entry read is the word written there, if any. -/
theorem readEntry_im {i : Nat} {s : State} {v : F64} (h : s.mem.lookup (2 * i + 1) = some v) :
    (readEntry i s).1.im = v := readWord_value (by simpa using h)

theorem readReg_of_written {r : Reg} {s : State} (h : s.cregs[r].written = true) :
    readReg r s = (s.cregs[r].value, s) := by
  unfold readReg; rw [if_pos h]

/-- A read of a register answers its value, if anything has written it. -/
theorem readReg_value {r : Reg} {s : State} (h : s.cregs[r].written = true) :
    (readReg r s).1 = s.cregs[r].value := by
  rw [readReg_of_written h]

theorem readWord_draws (j : Nat) (s : State) : s.draws ≤ (readWord j s).2.draws := by
  unfold readWord
  split
  · exact le_refl _
  · simp

theorem readEntry_draws (i : Nat) (s : State) : s.draws ≤ (readEntry i s).2.draws :=
  le_trans (readWord_draws _ s) (readWord_draws _ _)

theorem readReg_draws (r : Reg) (s : State) : s.draws ≤ (readReg r s).2.draws := by
  unfold readReg
  split
  · exact le_refl _
  · simp only [draw2_draws]
    omega

/-- A read changes nothing but the count of draws. -/
theorem readWord_frame (j : Nat) (s : State) :
    (readWord j s).2 = { s with draws := (readWord j s).2.draws } := by
  unfold readWord
  split <;> rfl

theorem readEntry_frame (i : Nat) (s : State) :
    (readEntry i s).2 = { s with draws := (readEntry i s).2.draws } := by
  unfold readEntry
  rw [readWord_frame (2 * i + 1), readWord_frame (2 * i) s]

theorem readReg_frame (r : Reg) (s : State) :
    (readReg r s).2 = { s with draws := (readReg r s).2.draws } := by
  unfold readReg
  split <;> rfl

theorem writeReg_cregs_same (r : Reg) (v : Cplx) (s : State) :
    (writeReg r v s).cregs[r] = { written := true, value := v } := by
  simp

theorem writeReg_cregs_other {r r' : Reg} (v : Cplx) (s : State) (h : r' ≠ r) :
    (writeReg r v s).cregs[r'] = s.cregs[r'] := by
  have h' : (r : Nat) ≠ r' := fun e => h (Fin.ext e.symm)
  simp [h']

/-- An entry reads as what was last written to it. -/
theorem readEntry_writeEntry_same (i : Nat) (v : Cplx) (s : State) :
    readEntry i (writeEntry i v s) = (v, writeEntry i v s) := by
  refine readEntry_of_written ?_ ?_
  · rw [writeEntry_mem, lookup_write, if_neg (by omega), lookup_write, if_pos rfl]
  · rw [writeEntry_mem, lookup_write, if_pos rfl]

/-- A write of an entry leaves every word of the others alone. -/
theorem lookup_writeEntry_other {i j : Nat} (v : Cplx) (s : State) (h : j ≠ 2 * i)
    (h' : j ≠ 2 * i + 1) : (writeEntry i v s).mem.lookup j = s.mem.lookup j := by
  rw [writeEntry_mem, lookup_write, if_neg h', lookup_write, if_neg h]

end Sys2Proof.Machine
end

