-- ==== Sys2Proof/Laws/Exec.lean ====
section
/-! SUPPORT. What a command does, once for all commands: issue when the block is idle, one sequencer step
when it is busy. -/

namespace Sys2Proof.Machine

/-- Every meaning is the life of a command over its word, its issue checks and its micro-op list. -/
theorem exec_eq_command (i : Instr) (s : State) :
    exec i s = command (encode i) (issueCheck s.params i) (expand i) s := by
  cases i <;> rfl

/-- In an idle block, a command is issued (R218). -/
theorem exec_idle {i : Instr} {s : State} (h : s.busy = false) :
    exec i s = .next (issue (encode i) (issueCheck s.params i s.n s.len) s) := by
  rw [exec_eq_command]
  unfold command
  rw [if_neg (by simp [h])]

/-- In a busy block, a command takes one sequencer step (R27). -/
theorem exec_busy {i : Instr} {s : State} (h : s.busy = true) :
    exec i s = sequencerStep (expand i s.nl s.ll) s := by
  rw [exec_eq_command]
  unfold command
  rw [if_pos h]

theorem issue_discarded {w : Word32} {f : Option FaultRecord} {s : State} (h : s.err = true) :
    issue w f s = s := by
  unfold issue; rw [if_pos h]

theorem issue_failed {w : Word32} {f : FaultRecord} {s : State} (h : s.err = false) :
    issue w (some f) s = raiseFault f.1 f.2 s := by
  unfold issue; rw [if_neg (by simp [h])]

theorem issue_passed {w : Word32} {s : State} (h : s.err = false) :
    issue w none s = accept w s := by
  unfold issue; rw [if_neg (by simp [h])]

/-- A command whose checks pass is accepted. -/
theorem exec_accepts {i : Instr} {s : State} (hb : s.busy = false) (he : s.err = false)
    (hc : issueCheck s.params i s.n s.len = none) : exec i s = .next (accept (encode i) s) := by
  rw [exec_idle hb, hc, issue_passed he]

/-- A command whose checks fail raises the fault of the first that does. -/
theorem exec_faults {i : Instr} {s : State} {f : FaultRecord} (hb : s.busy = false)
    (he : s.err = false) (hc : issueCheck s.params i s.n s.len = some f) :
    exec i s = .next (raiseFault f.1 f.2 s) := by
  rw [exec_idle hb, hc, issue_failed he]

theorem microStep_next {u : UOp} {s : State} (hn : namesExist u s = true) (hm : mayRead u s = true) :
    microStep u s = .next (advance (perform u s)) := by
  unfold microStep
  rw [if_neg (by simp [hn]), if_neg (by simp [hm])]

/-- What a micro-op step can do. -/
theorem microStep_eq_next {u : UOp} {s t : State} (h : microStep u s = .next t) :
    namesExist u s = true ∧ mayRead u s = true ∧ t = advance (perform u s) := by
  unfold microStep at h
  split at h
  case isTrue => cases h
  case isFalse hn =>
    split at h
    case isTrue => cases h
    case isFalse hm =>
      cases h
      exact ⟨by simpa using hn, by simpa using hm, rfl⟩

theorem sequencerStep_retires {uops : List UOp} {s : State} (h : uops.length ≤ s.pos.toNat) :
    sequencerStep uops s = .next (retire s) := by
  unfold sequencerStep
  rw [List.getElem?_eq_none h]

theorem sequencerStep_micro {uops : List UOp} {s : State} (h : s.pos.toNat < uops.length) :
    sequencerStep uops s = microStep uops[s.pos.toNat] s := by
  unfold sequencerStep
  rw [List.getElem?_eq_getElem h]

/-- What a sequencer step can do: the retire step at the end of the list, else the micro-op at `pos`. -/
theorem sequencerStep_eq_next {uops : List UOp} {s t : State} (h : sequencerStep uops s = .next t) :
    (uops.length ≤ s.pos.toNat ∧ t = retire s) ∨
    (∃ u, uops[s.pos.toNat]? = some u ∧ namesExist u s = true ∧ mayRead u s = true ∧
      t = advance (perform u s)) := by
  by_cases hl : s.pos.toNat < uops.length
  · rw [sequencerStep_micro hl] at h
    exact .inr ⟨_, List.getElem?_eq_getElem hl, microStep_eq_next h⟩
  · rw [sequencerStep_retires (by omega)] at h
    cases h
    exact .inl ⟨by omega, rfl⟩

/-- What a command can do: in an idle block, be discarded, refused or accepted; in a busy one, retire or
perform a micro-op. -/
theorem exec_eq_next {i : Instr} {s t : State} (h : exec i s = .next t) :
    (s.busy = false ∧ s.err = true ∧ t = s) ∨
    (s.busy = false ∧ s.err = false ∧
      ∃ f, issueCheck s.params i s.n s.len = some f ∧ t = raiseFault f.1 f.2 s) ∨
    (s.busy = false ∧ s.err = false ∧ issueCheck s.params i s.n s.len = none ∧
      t = accept (encode i) s) ∨
    (s.busy = true ∧ (expand i s.nl s.ll).length ≤ s.pos.toNat ∧ t = retire s) ∨
    (s.busy = true ∧ ∃ u, (expand i s.nl s.ll)[s.pos.toNat]? = some u ∧ namesExist u s = true ∧
      mayRead u s = true ∧ t = advance (perform u s)) := by
  cases hb : s.busy
  · rw [exec_idle hb] at h
    cases h
    cases he : s.err
    · cases hc : issueCheck s.params i s.n s.len with
      | none => exact .inr (.inr (.inl ⟨rfl, rfl, rfl, issue_passed he⟩))
      | some f => exact .inr (.inl ⟨rfl, rfl, f, rfl, issue_failed he⟩)
    · exact .inl ⟨rfl, rfl, issue_discarded he⟩
  · rw [exec_busy hb] at h
    rcases sequencerStep_eq_next h with ⟨h1, h2⟩ | h2
    · exact .inr (.inr (.inr (.inl ⟨rfl, h1, h2⟩)))
    · exact .inr (.inr (.inr (.inr ⟨rfl, h2⟩)))

end Sys2Proof.Machine
end

