-- ==== Sys2Proof/Laws/MicroOps.lean ====
section
/-! SUPPORT. The frame of every micro-op: which pieces of state none of them touches, which words each
may write, and that memory keeps its canonical form. -/

namespace Sys2Proof.Machine

/-! ### What no micro-op touches -/

@[simp] theorem perform_params (u : UOp) (s : State) : (perform u s).params = s.params := by
  cases u <;> simp [perform, microCadd, microCsub, microCmul, microCconj, microCpolar, microTwid, microBflyr, microLd, microSt, microSwap, microBflym, microConjm, microPostm, microZero, microLift]
@[simp] theorem perform_busy (u : UOp) (s : State) : (perform u s).busy = s.busy := by
  cases u <;> simp [perform, microCadd, microCsub, microCmul, microCconj, microCpolar, microTwid, microBflyr, microLd, microSt, microSwap, microBflym, microConjm, microPostm, microZero, microLift]
@[simp] theorem perform_done (u : UOp) (s : State) : (perform u s).done = s.done := by
  cases u <;> simp [perform, microCadd, microCsub, microCmul, microCconj, microCpolar, microTwid, microBflyr, microLd, microSt, microSwap, microBflym, microConjm, microPostm, microZero, microLift]
@[simp] theorem perform_err (u : UOp) (s : State) : (perform u s).err = s.err := by
  cases u <;> simp [perform, microCadd, microCsub, microCmul, microCconj, microCpolar, microTwid, microBflyr, microLd, microSt, microSwap, microBflym, microConjm, microPostm, microZero, microLift]
@[simp] theorem perform_cause (u : UOp) (s : State) : (perform u s).cause = s.cause := by
  cases u <;> simp [perform, microCadd, microCsub, microCmul, microCconj, microCpolar, microTwid, microBflyr, microLd, microSt, microSwap, microBflym, microConjm, microPostm, microZero, microLift]
@[simp] theorem perform_ie (u : UOp) (s : State) : (perform u s).ie = s.ie := by
  cases u <;> simp [perform, microCadd, microCsub, microCmul, microCconj, microCpolar, microTwid, microBflyr, microLd, microSt, microSwap, microBflym, microConjm, microPostm, microZero, microLift]
@[simp] theorem perform_len (u : UOp) (s : State) : (perform u s).len = s.len := by
  cases u <;> simp [perform, microCadd, microCsub, microCmul, microCconj, microCpolar, microTwid, microBflyr, microLd, microSt, microSwap, microBflym, microConjm, microPostm, microZero, microLift]
@[simp] theorem perform_errinfo (u : UOp) (s : State) : (perform u s).errinfo = s.errinfo := by
  cases u <;> simp [perform, microCadd, microCsub, microCmul, microCconj, microCpolar, microTwid, microBflyr, microLd, microSt, microSwap, microBflym, microConjm, microPostm, microZero, microLift]
@[simp] theorem perform_pos (u : UOp) (s : State) : (perform u s).pos = s.pos := by
  cases u <;> simp [perform, microCadd, microCsub, microCmul, microCconj, microCpolar, microTwid, microBflyr, microLd, microSt, microSwap, microBflym, microConjm, microPostm, microZero, microLift]
@[simp] theorem perform_cmdw (u : UOp) (s : State) : (perform u s).cmdw = s.cmdw := by
  cases u <;> simp [perform, microCadd, microCsub, microCmul, microCconj, microCpolar, microTwid, microBflyr, microLd, microSt, microSwap, microBflym, microConjm, microPostm, microZero, microLift]
@[simp] theorem perform_nl (u : UOp) (s : State) : (perform u s).nl = s.nl := by
  cases u <;> simp [perform, microCadd, microCsub, microCmul, microCconj, microCpolar, microTwid, microBflyr, microLd, microSt, microSwap, microBflym, microConjm, microPostm, microZero, microLift]
@[simp] theorem perform_ll (u : UOp) (s : State) : (perform u s).ll = s.ll := by
  cases u <;> simp [perform, microCadd, microCsub, microCmul, microCconj, microCpolar, microTwid, microBflyr, microLd, microSt, microSwap, microBflym, microConjm, microPostm, microZero, microLift]
@[simp] theorem perform_script (u : UOp) (s : State) : (perform u s).script = s.script := by
  cases u <;> simp [perform, microCadd, microCsub, microCmul, microCconj, microCpolar, microTwid, microBflyr, microLd, microSt, microSwap, microBflym, microConjm, microPostm, microZero, microLift]
@[simp] theorem perform_held (u : UOp) (s : State) : (perform u s).held = s.held := by
  cases u <;> simp [perform, microCadd, microCsub, microCmul, microCconj, microCpolar, microTwid, microBflyr, microLd, microSt, microSwap, microBflym, microConjm, microPostm, microZero, microLift]
@[simp] theorem perform_schedule (u : UOp) (s : State) : (perform u s).schedule = s.schedule := by
  cases u <;> simp [perform, microCadd, microCsub, microCmul, microCconj, microCpolar, microTwid, microBflyr, microLd, microSt, microSwap, microBflym, microConjm, microPostm, microZero, microLift]
@[simp] theorem perform_responses (u : UOp) (s : State) : (perform u s).responses = s.responses := by
  cases u <;> simp [perform, microCadd, microCsub, microCmul, microCconj, microCpolar, microTwid, microBflyr, microLd, microSt, microSwap, microBflym, microConjm, microPostm, microZero, microLift]

@[simp] theorem perform_wordCount (u : UOp) (s : State) : (perform u s).wordCount = s.wordCount :=
  wordCount_of_params (perform_params u s)

/-! ### Registers, `N`, and memory -/

/-- The micro-op writes a register. -/
def writesReg : UOp → Bool
  | .cadd _ _ _ | .csub _ _ _ | .cmul _ _ _ | .cconj _ _ | .cpolar _ _ | .twid _ _ _ | .bflyr _ _ _
  | .ld _ _ => true
  | _ => false

/-- A micro-op that writes no register leaves the register file alone. -/
theorem perform_cregs {u : UOp} (s : State) (h : writesReg u = false) :
    (perform u s).cregs = s.cregs := by
  cases u <;> first | (simp [writesReg] at h; done) | simp [perform, microSt, microSwap, microBflym, microConjm, microPostm, microZero, microLift]

/-- Only `uSETN` writes `N`. -/
theorem perform_n {u : UOp} (s : State) (h : ∀ v, u ≠ .setn v) : (perform u s).n = s.n := by
  cases u <;> first | (exact absurd rfl (h _)) | simp [perform, microCadd, microCsub, microCmul, microCconj, microCpolar, microTwid, microBflyr, microLd, microSt, microSwap, microBflym, microConjm, microPostm, microZero, microLift]

/-- A micro-op leaves every word of the entries it does not name alone (R81). -/
theorem perform_lookup {u : UOp} (s : State) {j : Nat} (h : ∀ i ∈ entriesNamed u, j ≠ 2 * i ∧ j ≠ 2 * i + 1) :
    (perform u s).mem.lookup j = s.mem.lookup j := by
  cases u <;> simp [entriesNamed] at h <;>
    simp [perform, microCadd, microCsub, microCmul, microCconj, microCpolar, microTwid, microBflyr, microLd, microSt, microSwap, microBflym, microConjm, microPostm, microZero, microLift, h]

/-- A micro-op whose entries exist keeps memory in canonical form. -/
theorem perform_wf {u : UOp} {s : State} (hn : namesExist u s = true) (h : s.mem.wf s.wordCount) :
    (perform u s).mem.wf s.wordCount := by
  have hw : ∀ i, i < s.params.nmax → 2 * i + 1 < s.wordCount := fun i hi => by
    unfold State.wordCount; omega
  have hw' : ∀ i, i < s.params.nmax → 2 * i < s.wordCount := fun i hi => by
    unfold State.wordCount; omega
  have he : ∀ (i : Nat) (v : Cplx) (m : Memory), i < s.params.nmax → m.wf s.wordCount →
      ((m.write (2 * i) v.re).write (2 * i + 1) v.im).wf s.wordCount := fun i v m hi hm =>
    write_wf _ _ (hw i hi) (write_wf _ _ (hw' i hi) hm)
  cases u with
  | ld d i => simpa [perform, microLd] using h
  | st r i =>
    simp [namesExist, entriesNamed] at hn
    simpa [perform, microSt] using he i _ _ hn h
  | swap i k =>
    simp [namesExist, entriesNamed] at hn
    simpa [perform, microSwap] using he k _ _ hn.2 (he i _ _ hn.1 h)
  | bflym a b st k =>
    simp [namesExist, entriesNamed] at hn
    simpa [perform, microBflym] using he b _ _ hn.2 (he a _ _ hn.1 h)
  | conjm i =>
    simp [namesExist, entriesNamed] at hn
    simpa [perform, microConjm] using he i _ _ hn h
  | postm i p =>
    simp [namesExist, entriesNamed] at hn
    simpa [perform, microPostm] using he i _ _ hn h
  | zero i =>
    simp [namesExist, entriesNamed] at hn
    simpa [perform, microZero] using he i _ _ hn h
  | lift i =>
    simp [namesExist, entriesNamed] at hn
    simpa [perform, microLift] using write_wf _ _ (hw i hn) h
  | _ => simpa [perform, microCadd, microCsub, microCmul, microCconj, microCpolar, microTwid, microBflyr, microLd, microSt, microSwap, microBflym, microConjm, microPostm, microZero, microLift] using h

end Sys2Proof.Machine
end

