-- ==== Sys2Proof/Laws/PerInstr.lean ====
section
/-! SUPPORT. A statement of every command as syntax, one lemma per constructor. -/

namespace Sys2Proof.Laws.OpcodeField

/-- A command whose operands fit their fields has its own opcode in bits 31:26 of its word: no operand
spills into them (R86, R95). -/
def Statement (i : Instr) : Prop := i.wellFormed = true → fieldOpcode (encode i) = i.opcode

/-- Operand bits below `2^26` leave the opcode field alone. -/
theorem fieldOpcode_assemble (op operands : Nat) (ho : op < 2 ^ 6) (h : operands < 2 ^ 26) :
    fieldOpcode (assemble op operands) = op := by
  unfold fieldOpcode field assemble
  rw [BitVec.toNat_ofNat]
  omega

theorem bitsR3_lt (rd ra rb : Reg) : bitsR3 rd ra rb < 2 ^ 26 := by unfold bitsR3; omega
theorem bitsR2_lt (rd ra : Reg) : bitsR2 rd ra < 2 ^ 26 := by unfold bitsR2; omega

theorem nop : Statement .nop := fun _ => by decide
theorem cadd (rd ra rb : Reg) : Statement (.cadd rd ra rb) := fun _ =>
  fieldOpcode_assemble 0x08 _ (by decide) (bitsR3_lt rd ra rb)
theorem csub (rd ra rb : Reg) : Statement (.csub rd ra rb) := fun _ =>
  fieldOpcode_assemble 0x09 _ (by decide) (bitsR3_lt rd ra rb)
theorem cmul (rd ra rb : Reg) : Statement (.cmul rd ra rb) := fun _ =>
  fieldOpcode_assemble 0x0A _ (by decide) (bitsR3_lt rd ra rb)
theorem cconj (rd ra : Reg) : Statement (.cconj rd ra) := fun _ =>
  fieldOpcode_assemble 0x0B _ (by decide) (bitsR2_lt rd ra)
theorem cpolar (rd ra : Reg) : Statement (.cpolar rd ra) := fun _ =>
  fieldOpcode_assemble 0x0C _ (by decide) (bitsR2_lt rd ra)
theorem twid (rd : Reg) (s k : Nat) : Statement (.twid rd s k) := fun h =>
  fieldOpcode_assemble 0x10 _ (by decide) (by simp [Instr.wellFormed] at h; unfold bitsT; omega)
theorem bfly (rd ra rb : Reg) : Statement (.bfly rd ra rb) := fun _ =>
  fieldOpcode_assemble 0x11 _ (by decide) (bitsR3_lt rd ra rb)
theorem cld (rd : Reg) (idx : Nat) : Statement (.cld rd idx) := fun h =>
  fieldOpcode_assemble 0x18 _ (by decide) (by simp [Instr.wellFormed] at h; unfold bitsM; omega)
theorem cst (rd : Reg) (idx : Nat) : Statement (.cst rd idx) := fun h =>
  fieldOpcode_assemble 0x19 _ (by decide) (by simp [Instr.wellFormed] at h; unfold bitsM; omega)
theorem bitrev : Statement .bitrev := fun _ => by decide
theorem bstage (s : Nat) : Statement (.bstage s) := fun h =>
  fieldOpcode_assemble 0x21 _ (by decide) (by simp [Instr.wellFormed] at h; unfold bitsS; omega)
theorem fft : Statement .fft := fun _ => by decide
theorem conjv : Statement .conjv := fun _ => by decide
theorem ipost : Statement .ipost := fun _ => by decide
theorem ifft : Statement .ifft := fun _ => by decide
theorem npow2 : Statement .npow2 := fun _ => by decide
theorem zpad : Statement .zpad := fun _ => by decide
theorem lift : Statement .lift := fun _ => by decide

end Sys2Proof.Laws.OpcodeField
end

