-- ==== Sys2Proof/Laws/Step.lean ====
section
/-! SUPPORT. What a step can do, once: a move of the host, of the sequencer, or a reset; and what each of
the host's moves can do. -/

namespace Sys2Proof.Machine

theorem step_of_host {s : State} (h : mover s = .host) : step s = hostTurn (popSchedule s) := by
  unfold step blockStep; rw [h]

theorem step_of_sequencer {s : State} (h : mover s = .sequencer) :
    step s = sequencerTurn (popSchedule s) := by
  unfold step blockStep; rw [h]

theorem step_of_reset {s : State} (h : mover s = .reset) :
    step s = .next (resetBlock (popSchedule s)) := by
  unfold step blockStep; rw [h]

theorem mover_cases (s : State) : mover s = .host ∨ mover s = .sequencer ∨ mover s = .reset := by
  cases mover s <;> simp

/-- A step is exactly one agent's move (R13). -/
theorem step_cases (s : State) :
    (mover s = .host ∧ step s = hostTurn (popSchedule s)) ∨
    (mover s = .sequencer ∧ step s = sequencerTurn (popSchedule s)) ∨
    (mover s = .reset ∧ step s = .next (resetBlock (popSchedule s))) := by
  rcases mover_cases s with h | h | h
  · exact .inl ⟨h, step_of_host h⟩
  · exact .inr (.inl ⟨h, step_of_sequencer h⟩)
  · exact .inr (.inr ⟨h, step_of_reset h⟩)

theorem sequencerTurn_idle {s : State} (h : s.busy = false) : sequencerTurn s = .next s := by
  unfold sequencerTurn; rw [if_neg (by simp [h])]

theorem sequencerTurn_busy {s : State} {i : Instr} (h : s.busy = true) (hd : decode s.cmdw = .ok i) :
    sequencerTurn s = exec i s := by
  unfold sequencerTurn; rw [if_pos h, hd]

theorem respondTo_eq_next {r : Response} {o : Result} {t : State} (h : respondTo r o = .next t) :
    ∃ s, o = .next s ∧ t = respond r s := by
  cases o with
  | next s => exact ⟨s, rfl, by simpa [respondTo] using h.symm⟩
  | fault f => simp [respondTo] at h
  | refused f => simp [respondTo] at h

theorem issueWord_discarded {w : Word32} {s : State} (h : s.err = true) :
    issueWord w s = .next s := by
  unfold issueWord; rw [if_pos h]

theorem issueWord_illegal {w : Word32} {s : State} {e : Illegal} (h : s.err = false)
    (hd : decode w = .error e) : issueWord w s = .next (raiseFault .illegalCommand w s) := by
  unfold issueWord; rw [if_neg (by simp [h]), hd]

theorem issueWord_ok {w : Word32} {s : State} {i : Instr} (h : s.err = false)
    (hd : decode w = .ok i) : issueWord w s = exec i s := by
  unfold issueWord; rw [if_neg (by simp [h]), hd]

/-- What a write of `CMD` can do to an idle block (R218). -/
theorem issueWord_eq_next {w : Word32} {s t : State} (h : issueWord w s = .next t) :
    (s.err = true ∧ t = s) ∨
    (s.err = false ∧ ∃ e, decode w = .error e ∧ t = raiseFault .illegalCommand w s) ∨
    (s.err = false ∧ ∃ i, decode w = .ok i ∧ exec i s = .next t) := by
  cases he : s.err
  · cases hd : decode w with
    | error e =>
      rw [issueWord_illegal he hd] at h
      cases h
      exact .inr (.inl ⟨rfl, e, rfl, rfl⟩)
    | ok i =>
      rw [issueWord_ok he hd] at h
      exact .inr (.inr ⟨rfl, i, rfl, h⟩)
  · rw [issueWord_discarded he] at h
    cases h
    exact .inl ⟨rfl, rfl⟩

/-- What a CSR write that is not held can do (R64). -/
theorem csrWrite_eq_next {x : Fin 16} {v : Word32} {s t : State} (h : csrWrite x v s = .next t) :
    (x = 3 ∧ t = writeCtrl v s) ∨ (x = 4 ∧ t = { s with n := v }) ∨
    (x = 5 ∧ t = { s with len := v }) ∨ (x = 8 ∧ issueWord v s = .next t) ∨ t = s := by
  fin_cases x <;> simp [csrWrite] at h <;> simp [h]

/-- What a transaction that is not held can do (R63 to R67): the block as it was, or one of the writes. -/
theorem completeTxn_eq_next {q : Request} {t : HostTxn} {s s' : State}
    (h : completeTxn q t s = .next s') :
    (∃ x r, t = .csrRead x ∧ s' = respond r s) ∨
    (∃ x v r u, t = .csrWrite x v ∧ csrWrite x v s = .next u ∧ s' = respond r u) ∨
    (∃ j r, t = .memRead j ∧ j < s.wordCount ∧ s' = respond r (readWord j s).2) ∨
    (∃ j v r, t = .memWrite j v ∧ j < s.wordCount ∧ s' = respond r (writeWord j v s)) ∨
    s' = respond .busError s := by
  cases t with
  | csrRead x => simp [completeTxn] at h; exact .inl ⟨x, _, rfl, h.symm⟩
  | csrWrite x v =>
    obtain ⟨u, hu, rfl⟩ := respondTo_eq_next h
    exact .inr (.inl ⟨x, v, _, u, rfl, hu, rfl⟩)
  | memRead j =>
    simp only [completeTxn] at h
    split at h
    · split at h
      · cases h
      · cases h; exact .inr (.inr (.inl ⟨j, _, rfl, ‹_›, rfl⟩))
    · cases h; exact .inr (.inr (.inr (.inr rfl)))
  | memWrite j v =>
    simp only [completeTxn] at h
    split at h
    · cases h; exact .inr (.inr (.inr (.inl ⟨j, v, _, rfl, ‹_›, rfl⟩)))
    · cases h; exact .inr (.inr (.inr (.inr rfl)))

/-- What a try of a request can do (R65, R72). -/
theorem attempt_eq_next {q : Request} {rest : List ScriptLine} {s t : State}
    (h : attempt q rest s = .next t) :
    (requestTxn q = none ∧ t = respond .busError { s with held := none, script := rest }) ∨
    (∃ x, requestTxn q = some x ∧ isHeld x s = true ∧ t = { s with held := some q, script := rest }) ∨
    (∃ x, requestTxn q = some x ∧ isHeld x s = false ∧
      completeTxn q x { s with held := none, script := rest } = .next t) := by
  unfold attempt at h
  cases hq : requestTxn q with
  | none => rw [hq] at h; cases h; exact .inl ⟨rfl, rfl⟩
  | some x =>
    rw [hq] at h
    simp only at h
    split at h
    case isTrue hh => cases h; exact .inr (.inl ⟨x, rfl, hh, rfl⟩)
    case isFalse hh => exact .inr (.inr ⟨x, rfl, by simpa using hh, h⟩)

/-- What the host's move can do. -/
theorem hostTurn_eq_next {s t : State} (h : hostTurn s = .next t) :
    t = s ∨ (∃ r sc, t = respond r { s with script := sc }) ∨
    (∃ q rest, attempt q rest s = .next t) := by
  unfold hostTurn at h
  split at h
  · exact .inr (.inr ⟨_, _, h⟩)
  · split at h
    · cases h; exact .inl rfl
    · exact .inr (.inr ⟨_, _, h⟩)
    · cases h; exact .inr (.inl ⟨_, _, rfl⟩)

end Sys2Proof.Machine
end

