-- ==== Sys2Proof/Machine/Script.lean ====
section
/-! DEFINITION. The notation of spec 30_encoding.md for programs: the assembler syntax of a command (R101),
the lines of a host script (R102) and the pseudo-instructions (R103).  A host script is
`State.script`; the machine's steps perform it line by line. -/

namespace Sys2Proof.Machine

/-- The assembler name of a register, `c0` to `c7` (R21, R101). -/
def regName (r : Reg) : String := "c" ++ toString r.val

/-- Operands separated by commas (R101). -/
def operandList : List String → String
  | [] => ""
  | [x] => x
  | x :: xs => x ++ ", " ++ operandList xs

/-- The command in assembler syntax, integers in decimal (R101). -/
def assembly (i : Instr) : String :=
  match i with
  | .nop => "nop"
  | .cadd rd ra rb => "cadd " ++ operandList [regName rd, regName ra, regName rb]
  | .csub rd ra rb => "csub " ++ operandList [regName rd, regName ra, regName rb]
  | .cmul rd ra rb => "cmul " ++ operandList [regName rd, regName ra, regName rb]
  | .cconj rd ra => "cconj " ++ operandList [regName rd, regName ra]
  | .cpolar rd ra => "cpolar " ++ operandList [regName rd, regName ra]
  | .twid rd s k => "twid " ++ operandList [regName rd, toString s, toString k]
  | .bfly rd ra rb => "bfly " ++ operandList [regName rd, regName ra, regName rb]
  | .cld rd idx => "cld " ++ operandList [regName rd, toString idx]
  | .cst rd idx => "cst " ++ operandList [regName rd, toString idx]
  | .bitrev => "bitrev"
  | .bstage s => "bstage " ++ toString s
  | .fft => "fft"
  | .conjv => "conjv"
  | .ipost => "ipost"
  | .ifft => "ifft"
  | .npow2 => "npow2"
  | .zpad => "zpad"
  | .lift => "lift"

/-- The control registers by name (R30). -/
inductive CsrName where
  | id | cap | status | ctrl | n | len | errinfo | seq | cmd
  deriving DecidableEq, Repr

/-- The index of a named control register (R30). -/
def CsrName.index : CsrName → Fin 16
  | .id => 0
  | .cap => 1
  | .status => 2
  | .ctrl => 3
  | .n => 4
  | .len => 5
  | .errinfo => 6
  | .seq => 7
  | .cmd => 8

/-- `csrw NAME, v` (R102). -/
def csrw (x : CsrName) (v : Word32) : ScriptLine := .request (.direct (.csrWrite x.index v))
/-- `csrr NAME` (R102). -/
def csrr (x : CsrName) : ScriptLine := .request (.direct (.csrRead x.index))
/-- `memw j, v` (R102). -/
def memw (j : Nat) (v : F64) : ScriptLine := .request (.direct (.memWrite j v))
/-- `memr j` (R102). -/
def memr (j : Nat) : ScriptLine := .request (.direct (.memRead j))
/-- `cmd <command>` (R102). -/
def cmd (i : Instr) : ScriptLine := .request (.direct (.csrWrite 8 (encode i)))

/-- `cmov cd, ca`: an exact copy of all 128 bits (R103). -/
def cmov (rd ra : Reg) : List Instr := [.cconj rd ra, .cconj rd rd]
/-- `run <command>` (R103). -/
def run (i : Instr) : List ScriptLine := [cmd i, .wait]
/-- `elemw i, re, im` (R103). -/
def elemw (i : Nat) (re im : F64) : List ScriptLine := [memw (2 * i) re, memw (2 * i + 1) im]
/-- `elemr i` (R103). -/
def elemr (i : Nat) : List ScriptLine := [memr (2 * i), memr (2 * i + 1)]

end Sys2Proof.Machine
end

