-- ==== Sys2Proof/Tests/Slice0.lean ====
section
/-! SUPPORT. Tests whose expected results are the spec's own vectors and examples, named beside each; the
checks of `WellFormed`; and, for every statement of Certificates/Slice0/Obligations.lean that has
hypotheses, a state and operands that meet them. -/

namespace Sys2Proof.Tests

open Sys2Proof.Machine Sys2Proof.Safety

/-! ### WellFormed -/

theorem smoke_twid_stage : (Instr.twid 0 32 0).wellFormed = false := by decide
theorem smoke_twid_index : (Instr.twid 0 1 65536).wellFormed = false := by decide
theorem smoke_cld_index : (Instr.cld 0 65536).wellFormed = false := by decide
theorem smoke_cst_index : (Instr.cst 0 65536).wellFormed = false := by decide
theorem smoke_bstage_stage : (Instr.bstage 32).wellFormed = false := by decide
theorem smoke_limits : (Instr.twid 7 31 65535).wellFormed = true ∧ (Instr.cld 7 65535).wellFormed = true ∧
    (Instr.cst 7 65535).wellFormed = true ∧ (Instr.bstage 31).wellFormed = true := by decide

/-! ### Decoding: T30 of 95_test_vectors.md, the words written out bit by bit there -/

theorem test_decode_nop : decode 0b00000100000000000000000000000000#32 = .ok .nop := by decide
theorem test_decode_cadd : decode 0b00100000101001100000000000000000#32 = .ok (.cadd 1 2 3) := by decide
theorem test_decode_csub : decode 0b00100111100011100000000000000000#32 = .ok (.csub 7 0 7) := by decide
theorem test_decode_cmul : decode 0b00101001000000100000000000000000#32 = .ok (.cmul 2 0 1) := by decide
theorem test_decode_cconj : decode 0b00101101101100000000000000000000#32 = .ok (.cconj 3 3) := by decide
theorem test_decode_cpolar : decode 0b00110010111000000000000000000000#32 = .ok (.cpolar 5 6) := by decide
theorem test_decode_twid : decode 0b01000010000011000000000000000001#32 = .ok (.twid 4 3 1) := by decide
theorem test_decode_twid_limits :
    decode 0b01000011110000000111111111111111#32 = .ok (.twid 7 16 32767) := by decide
theorem test_decode_bfly : decode 0b01000100000101000000000000000000#32 = .ok (.bfly 0 1 2) := by decide
theorem test_decode_cld : decode 0b01100000100000000000000000000101#32 = .ok (.cld 1 5) := by decide
theorem test_decode_cst : decode 0b01100111100000001111111111111111#32 = .ok (.cst 7 65535) := by decide
theorem test_decode_bitrev : decode 0b10000000000000000000000000000000#32 = .ok .bitrev := by decide
theorem test_decode_bstage : decode 0b10000100000010000000000000000000#32 = .ok (.bstage 2) := by decide
theorem test_decode_bstage_limit :
    decode 0b10000100010000000000000000000000#32 = .ok (.bstage 16) := by decide
theorem test_decode_fft : decode 0b10001000000000000000000000000000#32 = .ok .fft := by decide
theorem test_decode_conjv : decode 0b10001100000000000000000000000000#32 = .ok .conjv := by decide
theorem test_decode_ipost : decode 0b10010000000000000000000000000000#32 = .ok .ipost := by decide
theorem test_decode_ifft : decode 0b10010100000000000000000000000000#32 = .ok .ifft := by decide
theorem test_decode_npow2 : decode 0b10100000000000000000000000000000#32 = .ok .npow2 := by decide
theorem test_decode_zpad : decode 0b10100100000000000000000000000000#32 = .ok .zpad := by decide
theorem test_decode_lift : decode 0b10101000000000000000000000000000#32 = .ok .lift := by decide

/-- T30.22 to T30.33: words that must not decode. -/
theorem test_decode_illegal :
    ([0x00000000, 0xFFFFFFFF, 0xAC000000, 0x98000000, 0x9C000000].all
      fun w => decide (decode w = .error .reservedOpcode)) = true ∧
    ([0x04000001, 0x20010000, 0x2C080000, 0x40020000, 0x60010000, 0x86000000, 0x88000001].all
      fun w => decide (decode w = .error .mustBeZero)) = true := by decide

/-- T43.20: `bstage 0` decodes; its operand is a matter of the issue checks. -/
theorem test_decode_bstage_zero : decode 0x84000000 = .ok (.bstage 0) := by decide

/-- R101, with the operands of T30. -/
theorem test_assembly : assembly (.twid 4 3 1) = "twid c4, 3, 1" ∧
    assembly (.cst 7 65535) = "cst c7, 65535" ∧ assembly .fft = "fft" := by decide

/-! ### Arithmetic: T40 and T41 -/

/-- T40.1, T40.2, T40.5, T40.7, T40.8, T40.9, T40.10, T40.11. -/
theorem test_fadd :
    fadd 0x3FF0000000000000 0x4000000000000000 = 0x4008000000000000 ∧ fadd PZERO NZERO = PZERO ∧
    fadd (infOf false) (infOf true) = CNAN ∧
    fadd 0x7FEFFFFFFFFFFFFF 0x7FEFFFFFFFFFFFFF = infOf false ∧
    fadd 0x3FF0000000000000 0x3CA0000000000000 = 0x3FF0000000000000 ∧
    fadd 0x3FF0000000000000 0x3CA0000002000000 = 0x3FF0000000000001 ∧
    fadd 0x3FF0000000000001 0x3CA0000000000000 = 0x3FF0000000000002 ∧
    fadd 0x7FF0000000000001 0x3FF0000000000000 = CNAN := by decide +kernel

/-- T40.13, T40.15, T40.18. -/
theorem test_fsub : fsub NZERO PZERO = NZERO ∧ fsub NZERO NZERO = PZERO ∧
    fsub 0x4008000000000000 0x4014000000000000 = 0xC000000000000000 := by decide +kernel

/-- T40.19, T40.21 to T40.25, T40.27 to T40.29. -/
theorem test_fmul :
    fmul PZERO (infOf false) = CNAN ∧ fmul NZERO 0xC014000000000000 = PZERO ∧
    fmul 0x6974E718D7D7625A 0x6974E718D7D7625A = infOf false ∧
    fmul 0x16687E92154EF7AC 0x16687E92154EF7AC = PZERO ∧
    fmul 0x0000000000000001 0x3FE0000000000000 = PZERO ∧
    fmul 0x0000000000000004 0x3FE0000000000000 = 0x0000000000000002 ∧
    fmul 0x0010000000000000 0x3FE0000000000000 = 0x0008000000000000 ∧
    fmul 0xBFF0000000000000 (infOf false) = 0xFFF0000000000000 ∧
    fmul 0xFFF8000000000123 0x3FF0000000000000 = CNAN := by decide +kernel

/-- R121 and R122. -/
theorem test_i2f_pow2 : i2f 3 = 0x4008000000000000 ∧ i2f 511 = 0x407FF00000000000 ∧ i2f 0 = PZERO ∧
    pow2 (-16) = 0x3EF0000000000000 ∧ pow2 0 = 0x3FF0000000000000 := by decide +kernel

/-- R124: `NEG_TWO_PI` is the negation of twice `PI64`. -/
theorem test_neg_two_pi : NEG_TWO_PI = fneg (fmul (i2f 2) PI64) := by decide +kernel

/-- T41.6, T41.11, T41.12. -/
theorem test_cmul_function :
    cmul ⟨NZERO, PZERO⟩ ⟨ONE, NZERO⟩ = ⟨PZERO, PZERO⟩ ∧
    cmul ⟨0x6974E718D7D7625A, 0x6974E718D7D7625A⟩ ⟨0x6974E718D7D7625A, 0x6974E718D7D7625A⟩ =
      ⟨CNAN, infOf false⟩ ∧
    cmul ⟨0x3FB999999999999A, 0x3FC999999999999A⟩ ⟨0x3FD3333333333333, 0x3FD999999999999A⟩ =
      ⟨0xBFA999999999999C, 0x3FB999999999999A⟩ := by decide +kernel

/-- The `theta` column of R156 and of T42.17, T42.18. -/
theorem test_theta : theta 2 1 = 0xBFF921FB54442D18 ∧ theta 3 3 = 0xC002D97C7F3321D2 ∧
    theta 4 5 = 0xBFFF6A7A2955385E ∧ theta 10 511 = 0xC009156A569A0B01 ∧
    theta 16 32767 = 0xC00921C9104D8490 ∧ theta 1 0 = NZERO := by decide +kernel

/-- T40.35, T40.36, T40.40, T40.42, T40.44. -/
theorem test_integer_laws : ispow2 65536 = true ∧ ispow2 0 = false ∧ ispow2 65535 = false ∧
    npow2 0x80000000 = 1 ∧ npow2 9 = 16 ∧ npow2 1025 = 2048 ∧ npow2 0x40000001 = 0x80000000 := by
  decide +kernel

/-! ### Commands -/

/-- An idle block after reset with two lengths and a data memory. -/
def block (n len : Word32) (m : Memory) : State := { State.reset with n := n, len := len, mem := m }

/-- An idle block after reset with the registers `C[0]` to `C[2]` written. -/
def registers (x y z : Cplx) : State :=
  { State.reset with
    cregs := (((State.reset.cregs.set 0 ⟨true, x⟩).set 1 ⟨true, y⟩).set 2 ⟨true, z⟩) }

/-- The state a whole command leaves; the reset state where it stops. -/
def after (i : Instr) (s : State) : State :=
  match wholeCommand i s with
  | .next t => t
  | _ => State.reset

/-- What `C[r]` holds. -/
def reg (r : Reg) (s : State) : Cplx := s.cregs[r].value

/-- `(1, 2)` and `(3, 4)`, the operands of T41.30 to T41.33. -/
def one_two : Cplx := ⟨0x3FF0000000000000, 0x4000000000000000⟩
/-- See `one_two`. -/
def three_four : Cplx := ⟨0x4008000000000000, 0x4010000000000000⟩

/-- R145's example has `(1, 2) + (3, -2)`; this is T41.1. -/
theorem test_cadd : reg 7 (after (.cadd 7 0 1) (registers one_two three_four czero)) =
    ⟨0x4010000000000000, 0x4018000000000000⟩ := by decide +kernel
/-- T41.2: the `ra` operand minus the `rb` operand. -/
theorem test_csub : reg 7 (after (.csub 7 0 1) (registers one_two three_four czero)) =
    ⟨0xC000000000000000, 0xC000000000000000⟩ := by decide +kernel
/-- T41.33: the destination is both sources. -/
theorem test_cmul : reg 0 (after (.cmul 0 0 0) (registers one_two three_four czero)) =
    ⟨0xC008000000000000, 0x4010000000000000⟩ := by decide +kernel
/-- T41.20: the real word untouched, the imaginary word's sign flipped, NaNs as they are. -/
theorem test_cconj :
    reg 0 (after (.cconj 0 0) (registers ⟨0xFFF8000000000123, 0x7FF0000000000001⟩ czero czero)) =
    ⟨0xFFF8000000000123, 0xFFF0000000000001⟩ := by decide +kernel
/-- T41.22 and T41.26: angles `+0` and `-0`, under every rotator. -/
theorem test_cpolar :
    reg 1 (after (.cpolar 1 0) (registers ⟨0x4000000000000000, PZERO⟩ czero czero)) =
      ⟨0x4000000000000000, PZERO⟩ ∧
    reg 1 (after (.cpolar 1 0) (registers ⟨infOf false, NZERO⟩ czero czero)) =
      ⟨infOf false, CNAN⟩ := by decide +kernel
/-- R154's example `twid c0, 1, 0`, under every rotator. -/
theorem test_twid : reg 0 (after (.twid 0 1 0) State.reset) = ⟨ONE, NZERO⟩ := by decide +kernel
/-- R240(j) and R154: `s > LMAX` and `k >= 2^(s-1)` fault, the word recorded. -/
theorem test_twid_faults :
    exec (.twid 0 11 0) State.reset = .next (faulted 4 0x402C0000 State.reset) ∧
    exec (.twid 0 1 1) State.reset = .next (faulted 4 0x40040001 State.reset) := by
  constructor <;> rfl
/-- R155's first example, `bfly c0, c1, c2`. -/
theorem test_bfly :
    reg 0 (after (.bfly 0 1 2) (registers ⟨ONE, PZERO⟩ ⟨ONE, PZERO⟩ ⟨ONE, NZERO⟩)) =
      ⟨0x4000000000000000, PZERO⟩ ∧
    reg 1 (after (.bfly 0 1 2) (registers ⟨ONE, PZERO⟩ ⟨ONE, PZERO⟩ ⟨ONE, NZERO⟩)) =
      ⟨PZERO, PZERO⟩ := by decide +kernel
/-- R240(h). -/
theorem test_bfly_fault :
    exec (.bfly 1 1 2) State.reset = .next (faulted 4 0x44940000 State.reset) := rfl
/-- R205's example: `W[10] = 1.0`, `W[11] = 2.0`, `cld c1, 5`. -/
theorem test_cld :
    reg 1 (after (.cld 1 5) (block 0 0 [(10, 0x3FF0000000000000), (11, 0x4000000000000000)])) =
    ⟨0x3FF0000000000000, 0x4000000000000000⟩ := by decide +kernel
/-- T46.3. -/
theorem test_cld_fault :
    exec (.cld 0 1024) State.reset = .next (faulted 4 0x60000400 State.reset) := rfl
/-- R206's example, `cst` to entry 0, and the last entry. -/
theorem test_cst :
    (after (.cst 2 0) (registers czero czero ⟨0xC014000000000000, 0x4024000000000000⟩)).mem =
      [(0, 0xC014000000000000), (1, 0x4024000000000000)] ∧
    (after (.cst 2 1023) (registers czero czero ⟨CNAN, NZERO⟩)).mem =
      [(2046, CNAN), (2047, NZERO)] := by decide +kernel
/-- R207's example: `STATUS`, `SEQ` and `CMD` after `run nop` from reset. -/
theorem test_nop : (csrValue 2 (after .nop State.reset), csrValue 7 (after .nop State.reset),
    csrValue 8 (after .nop State.reset)) = (0x00000002, 1, 0x04000000) := by decide +kernel

/-- The data memory of real words `xs`, lifted. -/
def realWords (xs : List F64) : Memory :=
  (xs.mapIdx fun i x => [(2 * i, x), (2 * i + 1, PZERO)]).flatten

/-- T43.3. -/
theorem test_bitrev :
    (after .bitrev (block 4 0 (realWords [ONE, 0x4000000000000000, 0x4008000000000000,
      0x4010000000000000]))).mem =
    realWords [ONE, 0x4008000000000000, 0x4000000000000000, 0x4010000000000000] := by decide +kernel
/-- R167's lists. -/
theorem test_reorder : reorder 8 = [.swap 1 4, .swap 3 6] ∧ reorder 4 = [.swap 1 2] ∧
    reorder 1 = [] ∧ reorder 0 = [] := by decide
/-- R171's example. -/
theorem test_bstage : (after (.bstage 1) (block 2 0 (realWords [ONE, ONE]))).mem =
    realWords [0x4000000000000000, PZERO] := by decide +kernel
/-- R170's `stage(3, 8)`. -/
theorem test_stage : stage 3 8 =
    [.bflym 0 4 3 0, .bflym 1 5 3 1, .bflym 2 6 3 2, .bflym 3 7 3 3] := by decide
/-- T43.11, under every rotator. -/
theorem test_fft : (after .fft (block 2 0 (realWords [ONE, 0xBFF0000000000000]))).mem =
    realWords [PZERO, 0x4000000000000000] := by decide +kernel
/-- R178: the micro-op counts of `FFT` for lengths 1 to 16. -/
theorem test_fft_counts : ([1, 2, 4, 8, 16].map fun n => (expandFft n).length) = [0, 1, 5, 14, 38] := by
  decide
/-- R186's example. -/
theorem test_conjv :
    (after .conjv (block 2 0 [(0, ONE), (1, 0x4000000000000000), (2, 0x4008000000000000), (3, PZERO)])).mem =
    [(0, ONE), (1, 0xC000000000000000), (2, 0x4008000000000000), (3, NZERO)] := by decide +kernel
/-- T44.2. -/
theorem test_ipost :
    (after .ipost (block 4 0 [(0, 0x4010000000000000), (1, NZERO), (2, 0xC000000000000000),
      (3, 0x4000000000000000), (4, 3), (5, ONE), (6, infOf false), (7, 0x7FF8000000000005)])).mem =
    [(0, ONE), (1, PZERO), (2, 0xBFE0000000000000), (3, 0xC000000000000000), (4, 1),
      (5, 0xBFF0000000000000), (6, infOf false), (7, 0xFFF8000000000005)] := by decide +kernel
/-- T44.5, under every rotator. -/
theorem test_ifft :
    (after .ifft (block 2 0 (realWords [0x4008000000000000, ONE]))).mem =
    [(0, 0x4000000000000000), (1, PZERO), (2, ONE), (3, NZERO)] := by decide +kernel
/-- T44.4: at length 1 the real word alone is canonicalised. -/
theorem test_ifft_one :
    (after .ifft (block 1 0 [(0, 0xFFF8000000000123), (1, 0x7FF0000000000001)])).mem =
    [(0, CNAN), (1, 0x7FF0000000000001)] := by decide +kernel
/-- T45.1 and T45.5. -/
theorem test_npow2 : (after .npow2 (block 0 5 [])).n = 8 ∧
    (after .npow2 (block 0 0x7FFFFFFF [])).n = 0x80000000 := by decide +kernel
/-- T45.12: `ZPAD` has no power-of-two check. -/
theorem test_zpad : (after .zpad (block 6 3 [(5, ONE)])).mem =
    [(5, ONE), (6, PZERO), (7, PZERO), (8, PZERO), (9, PZERO), (10, PZERO), (11, PZERO)] := by
  decide +kernel
/-- R240(f) and (g). -/
theorem test_zpad_faults : exec .zpad (block 8 9 []) = .next (faulted 4 9 (block 8 9 [])) ∧
    exec .zpad (block 8 0xFFFFFFFF []) = .next (faulted 4 0xFFFFFFFF (block 8 0xFFFFFFFF [])) := by
  constructor <;> rfl
/-- T45.13: `LIFT` runs on imaginary words that nothing has written, and reads no real word. -/
theorem test_lift : (after .lift (block 2 0 [(0, 0x3FE0000000000000), (2, 0xBFD0000000000000)])).mem =
    [(0, 0x3FE0000000000000), (1, PZERO), (2, 0xBFD0000000000000), (3, PZERO)] := by decide +kernel
/-- R239 and T60.2: the length check comes first. -/
theorem test_length_faults : exec .fft (block 3 0 []) = .next (faulted 2 3 (block 3 0 [])) ∧
    exec .fft (block 3000 0 []) = .next (faulted 2 3000 (block 3000 0 [])) ∧
    exec .fft (block 2048 0 []) = .next (faulted 3 2048 (block 2048 0 [])) := by
  refine ⟨?_, ?_, ?_⟩ <;> rfl

/-! ### Steps of the machine -/

/-- `k` steps of the machine. -/
def steps : Nat → State → State
  | 0, s => s
  | k + 1, s =>
    match step s with
    | .next t => steps k t
    | _ => s

/-- R239, the script of FFTDOC's length-3 test, one line a step: what the host is answered. -/
theorem test_length_three_script :
    (steps 10 { State.reset with script := [csrw .n 3, cmd .fft, csrr .status, csrr .errinfo, csrr .seq,
      csrr .cmd, cmd .nop, csrr .status, csrw .ctrl 2, csrr .status] }).responses =
    [.ok, .ok, .word32 0x24, .word32 3, .word32 0, .word32 0, .ok, .word32 0x24, .ok, .word32 0] := by
  decide +kernel

/-- Program P5: a read issued while the transform runs is held and answers the value after it. -/
theorem test_held_read :
    (steps 5 { block 2 0 (realWords [ONE, 0xBFF0000000000000]) with
      script := [cmd .fft, memr 2], schedule := [.host, .host] }).responses =
    [.ok, .word64 0x4000000000000000] := by decide +kernel

/-- T20.8: a data access that does not exist. -/
theorem test_bus_error :
    (steps 2 { State.reset with script := [memr 2048, memw 2048 0] }).responses =
    [.busError, .busError] := by decide +kernel

/-- The placed word is what the very next step issues. -/
theorem test_with_fetch_word :
    (steps 1 (State.reset.withFetchWord 32 0x04000000)).cmdw = 0x04000000 := by decide +kernel

/-! ### Witnesses: states and operands that meet the hypotheses of the statements -/

theorem val_PZERO : val PZERO = 0 := by
  unfold val
  rw [show smag PZERO = 0 by decide]
  simp

/-- The reset state with the host about to issue `q`. -/
def hostTrying (q : Request) : State :=
  { State.reset with script := [.request q], schedule := [.host] }

/-- The same with a command in flight. -/
def hostTryingBusy (q : Request) : State := { hostTrying q with busy := true, cmdw := 0x88000000 }

theorem hostTrying_tries (q : Request) : HostTries (hostTrying q) q [] := by
  refine ⟨rfl, .inr ⟨rfl, rfl⟩⟩

theorem hostTryingBusy_tries (q : Request) : HostTries (hostTryingBusy q) q [] := by
  refine ⟨rfl, .inr ⟨rfl, rfl⟩⟩

/-- A held request is tried again. -/
theorem held_tries (q : Request) :
    HostTries { State.reset with held := some q, script := [.wait] } q [.wait] :=
  ⟨rfl, .inl ⟨rfl, rfl⟩⟩

theorem reset_idle : Idle State.reset := ⟨rfl, rfl⟩

theorem witness_EncodeThenDecode :
    (Instr.twid 7 31 65535).wellFormed = true ∧ (Instr.cld 7 65535).wellFormed = true ∧
    (Instr.bstage 31).wellFormed = true ∧ (Instr.cadd 7 7 7).wellFormed = true := by decide

theorem witness_DecodedWordIsCanonical : decode 0x43C07FFF = .ok (.twid 7 16 32767) := by decide

/-- Both ends of every range of reserved opcodes. -/
theorem witness_ReservedOpcodesAreIllegal :
    ([0x00, 0x02, 0x07, 0x0D, 0x0F, 0x12, 0x17, 0x1A, 0x1F, 0x26, 0x27, 0x2B, 0x3F].all fun op =>
      decide (fieldOpcode (BitVec.ofNat 32 (op * 2 ^ 26 + 1)) = op ∧
        decode (BitVec.ofNat 32 (op * 2 ^ 26 + 1)) = .error .reservedOpcode)) = true ∧
    Idle State.reset := ⟨by decide, rfl, rfl⟩

theorem witness_MustBeZeroBitsAreIllegal :
    fieldOpcode 0x88000001 = Instr.fft.opcode ∧
    (0x88000001 : Word32) &&& Instr.fft.format.mask ≠ BitVec.ofNat 32 (Instr.fft.opcode * 2 ^ 26) ∧
    fieldOpcode 0x20010000 = (Instr.cadd 0 0 0).opcode ∧
    (0x20010000 : Word32) &&& (Instr.cadd 0 0 0).format.mask ≠
      BitVec.ofNat 32 ((Instr.cadd 0 0 0).opcode * 2 ^ 26) ∧ Idle State.reset :=
  ⟨by decide, by decide, by decide, by decide, rfl, rfl⟩

theorem witness_AdditionFollowsItsTable :
    isNaN CNAN = true ∧ isInf (infOf false) = true ∧ isNaN ONE = false ∧
    (isInf ONE = true → signBit ONE = signBit (infOf false)) ∧
    isFinite ONE = true ∧ isFinite (fneg ONE) = true ∧ isZero ONE = false ∧
    val ONE + val (fneg ONE) = 0 ∧ val ONE + val ONE ≠ 0 ∧ |val PZERO + val PZERO| < 1 / 2 ^ 1022 := by
  have h : val (fneg ONE) = -val ONE := by
    unfold val
    rw [show smag (fneg ONE) = -smag ONE by decide +kernel]
    push_cast
    ring
  refine ⟨by decide, by decide, by decide, by decide, by decide, by decide, by decide, ?_, ?_, ?_⟩
  · rw [h]; ring
  · rw [Laws.ConformingRotator.val_ONE]; norm_num
  · rw [val_PZERO]; norm_num

theorem witness_SubtractionAddsTheNegation :
    isNaN CNAN = true ∧ isInf (infOf false) = true ∧ isNaN (infOf true) = false ∧
    (isInf (infOf true) = true → signBit (infOf true) ≠ signBit (infOf false)) ∧
    isFinite ONE = true ∧ isFinite PZERO = true ∧ val ONE - val PZERO ≠ 0 := by
  refine ⟨by decide, by decide, by decide, by decide, by decide, by decide, ?_⟩
  rw [Laws.ConformingRotator.val_ONE, val_PZERO]
  norm_num

theorem witness_MultiplicationFollowsItsTable :
    isNaN CNAN = true ∧ isZero NZERO = true ∧ isInf (infOf true) = true ∧ isNaN ONE = false ∧
    isZero ONE = false ∧ isFinite ONE = true ∧ isFinite 1 = true ∧ isZero 1 = false := by decide

theorem witness_ScalingByPowersOfTwoIsDivision :
    isFinite ONE = true ∧ 16 ≤ 16 ∧ (2 : ℚ) ^ 16 / 2 ^ 1022 ≤ |val ONE| := by
  refine ⟨by decide, le_refl _, ?_⟩
  rw [Laws.ConformingRotator.val_ONE, abs_one, div_le_one (by positivity)]
  exact pow_le_pow_right₀ (by norm_num) (by norm_num)

theorem witness_BitReversalLaws : 16 ≤ 16 ∧ 2 ^ 16 - 1 < 2 ^ 16 ∧ 1 ≤ 1 ∧ 0 < 2 ^ (1 - 1) := by decide

theorem witness_PowersOfTwoAreTheTransformLengths : [czero] ≠ [] := by decide

/-- Both sides of the boundary at 1, and the largest length. -/
theorem witness_NextPowerOfTwo : (1 : Word32).toInt ≤ 1 ∧ 1 < (2 : Word32).toInt ∧
    1 < (0x7FFFFFFF : Word32).toInt ∧ (0x7FFFFFFF : Word32).toInt ≤ (2 : Int) ^ 31 := by decide

theorem witness_ComplexFunctions : isFinite czero.re = true ∧ isFinite czero.im = true ∧ 62 < 63 := by
  decide

theorem witness_PolarForm : isFinite ONE = true ∧ isFinite CNAN = false ∧
    isFinite (infOf true) = false ∧ isInf (infOf true) = true := by decide

theorem witness_RotatorProperties : isFinite (infOf false) = false ∧ isFinite PZERO = true ∧
    isFinite PI64 = true ∧ |val PI64| ≤ val PI64 := by
  refine ⟨by decide, by decide, by decide, ?_⟩
  rw [abs_of_nonneg]
  unfold val
  rw [show smag PI64 = mag PI64 by decide +kernel]
  positivity

/-- The first and the last angle: `s = 1, k = 0` and `s = 16, k = 32767`. -/
theorem witness_TwiddleAngles : (1 ≤ 1 ∧ 1 ≤ 16 ∧ 0 < 2 ^ (1 - 1)) ∧
    (1 ≤ 16 ∧ 16 ≤ 16 ∧ 32767 < 2 ^ (16 - 1)) := by decide

theorem witness_TwiddleFactors : (1 ≤ 1 ∧ 1 ≤ 16 ∧ 0 < 2 ^ (1 - 1)) ∧
    (1 ≤ 16 ∧ 16 ≤ 16 ∧ 32767 < 2 ^ (16 - 1)) := by decide

theorem witness_TwiddleSubsampling : (1 ≤ 1 ∧ 1 + 15 ≤ 16 ∧ 0 < 2 ^ (1 - 1)) ∧
    (1 ≤ 10 ∧ 10 ≤ Config.Params.default.lmax ∧ 511 < 2 ^ (10 - 1)) := by decide

theorem witness_ButterflyLaws : isFinite ONE = true ∧ isZero ONE = false ∧ 1 ≤ 16 ∧ 16 ≤ 16 ∧
    isNaN CNAN = true ∧ isFinite NZERO = true := by decide

theorem witness_ResetLeaves : mover { State.reset with schedule := [.reset], busy := true } = .reset ∧
    step { State.reset with schedule := [.reset], busy := true } = .next State.reset := ⟨rfl, rfl⟩

theorem witness_ControlRegisterReads :
    HostTries (hostTrying (.direct (.csrRead 15))) (.direct (.csrRead 15)) [] ∧
    9 ≤ (9 : Fin 16).val := ⟨hostTrying_tries _, by decide⟩

/-- Every clause: the registers written, held, discarded, and `CTRL` and `CMD`. -/
theorem witness_ControlRegisterWrites :
    (∀ x : Fin 16, HostTries (hostTrying (.direct (.csrWrite x 7))) (.direct (.csrWrite x 7)) [] ∧
      (hostTrying (.direct (.csrWrite x 7))).busy = false) ∧
    (∀ x : Fin 16, HostTries (hostTryingBusy (.direct (.csrWrite x 7))) (.direct (.csrWrite x 7)) [] ∧
      (hostTryingBusy (.direct (.csrWrite x 7))).busy = true) ∧
    (0 : Fin 16) ∈ ([0, 1, 2, 6, 7, 9, 10, 11, 12, 13, 14, 15] : List (Fin 16)) ∧
    (15 : Fin 16) ∈ ([0, 1, 2, 6, 7, 9, 10, 11, 12, 13, 14, 15] : List (Fin 16)) :=
  ⟨fun _ => ⟨hostTrying_tries _, rfl⟩, fun _ => ⟨hostTryingBusy_tries _, rfl⟩, by decide, by decide⟩

theorem witness_ControlBitsAndInterrupt : (2 : Word32).getLsbD 1 = true ∧
    (1 : Word32).getLsbD 1 = false ∧ (retire State.reset).done = true ∧
    HostTries (hostTrying (.direct (.csrWrite 3 3))) (.direct (.csrWrite 3 3)) [] :=
  ⟨by decide, by decide, rfl, hostTrying_tries _⟩

/-- The last word that exists and the first that does not; idle and busy; written and not; both policies. -/
theorem witness_DataMemoryTransactions :
    (HostTries (hostTrying (.direct (.memRead 2048))) (.direct (.memRead 2048)) [] ∧
      2 * (hostTrying (.direct (.memRead 2048))).params.nmax ≤ 2048) ∧
    (HostTries (hostTryingBusy (.direct (.memRead 2047))) (.direct (.memRead 2047)) [] ∧
      2047 < 2 * (hostTryingBusy (.direct (.memRead 2047))).params.nmax) ∧
    (HostTries { hostTrying (.direct (.memRead 2047)) with mem := [(2047, 1)] }
      (.direct (.memRead 2047)) [] ∧ Memory.lookup [(2047, 1)] 2047 = some 1) ∧
    ((hostTrying (.direct (.memRead 0))).mem.lookup 0 = none ∧
      (hostTrying (.direct (.memRead 0))).params.unwritten = .anyValue) ∧
    HostTries { hostTrying (.direct (.memRead 0)) with
      params := { lmaxLessOne := 0, unwritten := .refuse } } (.direct (.memRead 0)) [] ∧
    (HostTries (hostTrying (.direct (.memWrite 2048 1))) (.direct (.memWrite 2048 1)) [] ∧
      HostTries (hostTryingBusy (.direct (.memWrite 2047 1))) (.direct (.memWrite 2047 1)) [] ∧
      HostTries (hostTrying (.direct (.memWrite 2047 1))) (.direct (.memWrite 2047 1)) []) := by
  refine ⟨⟨hostTrying_tries _, by decide⟩, ⟨hostTryingBusy_tries _, by decide⟩,
    ⟨⟨rfl, .inr ⟨rfl, rfl⟩⟩, by decide⟩, ⟨rfl, rfl⟩, ⟨rfl, .inr ⟨rfl, rfl⟩⟩,
    hostTrying_tries _, hostTryingBusy_tries _, hostTrying_tries _⟩

/-- A held and an unheld transaction while busy. -/
theorem witness_HoldsWhileBusy :
    (HostTries (hostTryingBusy (.direct (.memRead 2047))) (.direct (.memRead 2047)) [] ∧
      isHeld (.memRead 2047) (hostTryingBusy (.direct (.memRead 2047))) = true) ∧
    (HostTries (hostTryingBusy (.direct (.memRead 2048))) (.direct (.memRead 2048)) [] ∧
      isHeld (.memRead 2048) (hostTryingBusy (.direct (.memRead 2048))) = false) ∧
    (hostTryingBusy (.direct (.memRead 2048))).busy = true :=
  ⟨⟨hostTryingBusy_tries _, by decide⟩, ⟨hostTryingBusy_tries _, by decide⟩, rfl⟩

/-- What the bridge refuses, in each region: a width, an alignment and an end of the space; and what it
accepts: held, performed on the last register and the last word, never written and written. -/
theorem witness_BridgeIsLittleEndian :
    ([0, 0, 0, 0, 0, 0, 0, 1] : List (BitVec 8)).length = 8 ∧
    ([0, 0, 0, 1] : List (BitVec 8)).length = 4 ∧
    (HostTries (hostTrying (.busRead .dmem 8 4)) (.busRead .dmem 8 4) [] ∧ ¬ (4 = 8 ∧ 8 % 8 = 0)) ∧
    (HostTries (hostTrying (.busRead .dmem 4 8)) (.busRead .dmem 4 8) [] ∧ ¬ (8 = 8 ∧ 4 % 8 = 0)) ∧
    (HostTries (hostTrying (.busRead .csr 64 4)) (.busRead .csr 64 4) [] ∧
      ¬ (4 = 4 ∧ 64 % 4 = 0 ∧ 64 < 64)) ∧
    (HostTries (hostTrying (.busWrite .dmem 0 [1])) (.busWrite .dmem 0 [1]) [] ∧
      ¬ (([1] : List (BitVec 8)).length = 8 ∧ 0 % 8 = 0)) ∧
    (HostTries (hostTrying (.busWrite .csr 2 [1, 2, 3, 4])) (.busWrite .csr 2 [1, 2, 3, 4]) [] ∧
      ¬ (([1, 2, 3, 4] : List (BitVec 8)).length = 4 ∧ 2 % 4 = 0 ∧ 2 < 64)) ∧
    (HostTries (hostTryingBusy (.busRead .dmem 16376 8)) (.busRead .dmem 16376 8) [] ∧
      requestTxn (.busRead .dmem 16376 8) = some (.memRead 2047) ∧
      isHeld (.memRead 2047) (hostTryingBusy (.busRead .dmem 16376 8)) = true) ∧
    (HostTries (hostTrying (.busRead .csr 60 4)) (.busRead .csr 60 4) [] ∧
      requestTxn (.busRead .csr 60 4) = some (.csrRead 15) ∧
      isHeld (.csrRead 15) (hostTrying (.busRead .csr 60 4)) = false ∧
      ∃ t, step { hostTrying (.busRead .csr 60 4) with held := some (.direct (.csrRead 15)), script := [] } =
        .next t) ∧
    (isHeld (.memRead 2047) { hostTrying (.busRead .dmem 16376 8) with mem := [(2047, 1)] } = false ∧
      Memory.lookup [(2047, 1)] 2047 ≠ none) ∧
    ((hostTrying (.busRead .dmem 16376 8)).busy = false ∧
      2047 < 2 * (hostTrying (.busRead .dmem 16376 8)).params.nmax ∧
      (hostTrying (.busRead .dmem 16376 8)).mem.lookup 2047 = none ∧
      (hostTrying (.busRead .dmem 16376 8)).params.unwritten = .anyValue) := by
  refine ⟨by decide, by decide, ⟨hostTrying_tries _, by decide⟩, ⟨hostTrying_tries _, by decide⟩,
    ⟨hostTrying_tries _, by decide⟩, ⟨hostTrying_tries _, by decide⟩, ⟨hostTrying_tries _, by decide⟩,
    ⟨hostTryingBusy_tries _, by decide, by decide⟩, ⟨hostTrying_tries _, by decide, by decide, _, rfl⟩,
    ⟨by decide, by decide⟩, ⟨rfl, by decide, rfl, rfl⟩⟩

/-- Every clause of the issue procedure: held, discarded, illegal, refused, accepted. -/
theorem witness_CommandIssue :
    (HostTries (hostTryingBusy (.direct (.csrWrite 8 0))) (.direct (.csrWrite 8 0)) [] ∧
      (hostTryingBusy (.direct (.csrWrite 8 0))).busy = true) ∧
    (HostTries { hostTrying (.direct (.csrWrite 8 0)) with err := true } (.direct (.csrWrite 8 0)) [] ∧
      ({ hostTrying (.direct (.csrWrite 8 0)) with err := true } : State).busy = false) ∧
    (∀ w, Idle (hostTrying (.direct (.csrWrite 8 w)))) ∧
    decode 0 = .error .reservedOpcode ∧
    (decode 0x44940000 = .ok (.bfly 1 1 2) ∧
      issueCheck Config.Params.default (.bfly 1 1 2) 0 0 = some (.badOperand, 0x44940000)) ∧
    (decode 0x04000000 = .ok .nop ∧ issueCheck Config.Params.default .nop 0 0 = none) :=
  ⟨⟨hostTryingBusy_tries _, rfl⟩, ⟨⟨rfl, .inr ⟨rfl, rfl⟩⟩, rfl⟩, fun _ => ⟨rfl, rfl⟩, by decide,
    ⟨by decide, by decide⟩, ⟨by decide, rfl⟩⟩

theorem length3_illegal : ¬ TransformLength 3 := by
  rintro (h | ⟨p, h⟩)
  · exact absurd h (by decide)
  · have h3 : (3 : Word32).toNat = 3 := rfl
    rw [h3] at h
    rcases p with _ | _ | p
    · omega
    · omega
    · rw [pow_succ, pow_succ] at h; omega

theorem length0_legal : TransformLength 0 := .inl rfl
theorem length4_legal : TransformLength 4 := .inr ⟨2, rfl⟩
theorem length1024_legal : TransformLength 1024 := .inr ⟨10, rfl⟩
theorem length2048_legal : TransformLength 2048 := .inr ⟨11, rfl⟩

/-- Lengths on both sides of each check: 3, 2048 and 1024 with `NMAX = 1024`; stages 0, 10 and 11. -/
theorem witness_IssueChecksInOrder :
    ¬ TransformLength 3 ∧ TransformLength 2048 ∧ Config.Params.default.nmax < (2048 : Word32).toNat ∧
    TransformLength 1024 ∧ (1024 : Word32).toNat ≤ Config.Params.default.nmax ∧
    ¬ (1 ≤ 0 ∧ 0 ≤ log2 (1024 : Word32).toNat) ∧ ¬ (1 ≤ 11 ∧ 11 ≤ log2 (1024 : Word32).toNat) ∧
    (1 ≤ 10 ∧ 10 ≤ log2 (1024 : Word32).toNat) ∧ Instr.ifft ∈ [Instr.bitrev, .fft, .ipost, .ifft] ∧
    Instr.lift ∈ [Instr.conjv, .lift] :=
  ⟨length3_illegal, length2048_legal, by decide, length1024_legal, by decide, by decide, by decide,
    by decide, by decide, by decide⟩

theorem witness_FaultEntryChangesOnlyTheRecord : Idle (block 3 0 []) ∧
    issueCheck (block 3 0 []).params .fft (block 3 0 []).n (block 3 0 []).len =
      some (.invalidLength, 3) ∧
    Idle State.reset ∧ decode 0xFFFFFFFF = .error .reservedOpcode :=
  ⟨⟨rfl, rfl⟩, by decide, reset_idle, by decide⟩

theorem witness_FaultConditions :
    (Idle State.reset ∧ decode 0 = .error .reservedOpcode) ∧
    (Idle (block 3 0 []) ∧ ¬ TransformLength (block 3 0 []).n) ∧
    (Idle (block 2048 0 []) ∧ (block 2048 0 []).params.nmax < (block 2048 0 []).n.toNat ∧
      TransformLength (block 2048 0 []).n) ∧
    (¬ (1 ≤ 11 ∧ 11 ≤ State.reset.params.lmax ∧ 0 < 2 ^ (11 - 1)) ∧
      ¬ (1 ≤ 1 ∧ 1 ≤ State.reset.params.lmax ∧ 1 < 2 ^ (1 - 1)) ∧ State.reset.params.nmax ≤ 1024) ∧
    (TransformLength (block 4 5 []).n ∧ (block 4 5 []).n.toNat ≤ (block 4 5 []).params.nmax ∧
      ¬ (1 ≤ 3 ∧ 3 ≤ log2 (block 4 5 []).n.toNat) ∧
      ¬ (0 ≤ (block 4 5 []).len.toInt ∧ (block 4 5 []).len.toInt ≤ ((block 4 5 []).n.toNat : Int))) :=
  ⟨⟨reset_idle, by decide⟩, ⟨⟨rfl, rfl⟩, length3_illegal⟩, ⟨⟨rfl, rfl⟩, by decide, length2048_legal⟩,
    ⟨by decide, by decide, by decide⟩, ⟨length4_legal, by decide, by decide, by decide⟩⟩

/-- A recorded fault, with the host about to make each transaction. -/
def faultRecorded (q : Request) : State := faulted 2 3 { hostTrying q with mem := [(2047, 1)] }

theorem witness_CommandsVanishWhileFaultRecorded :
    (∀ q, (faultRecorded q).busy = false ∧ (faultRecorded q).err = true ∧
      HostTries (faultRecorded q) q []) ∧
    2047 < 2 * (faultRecorded (.direct (.memRead 2047))).params.nmax ∧
    (faultRecorded (.direct (.memRead 2047))).mem.lookup 2047 = some 1 ∧
    ((faultRecorded (.direct (.memRead 0))).mem.lookup 0 = none ∧
      (faultRecorded (.direct (.memRead 0))).params.unwritten = .anyValue) ∧
    (HostTries { faultRecorded (.direct (.memRead 0)) with
        params := { lmaxLessOne := 0, unwritten := .refuse } } (.direct (.memRead 0)) [] ∧
      ({ faultRecorded (.direct (.memRead 0)) with
        params := { lmaxLessOne := 0, unwritten := .refuse } } : State).err = true) :=
  ⟨fun _ => ⟨rfl, rfl, rfl, .inr ⟨rfl, rfl⟩⟩, by decide, by decide, ⟨by decide, rfl⟩,
    ⟨⟨rfl, .inr ⟨rfl, rfl⟩⟩, rfl⟩⟩

/-- A state with the invariant and a command in flight: `FFT` of length 2 before its one micro-op. -/
def transforming : State :=
  { block 2 0 (realWords [ONE, 0xBFF0000000000000]) with busy := true, cmdw := 0x88000000, nl := 2 }

theorem transforming_inv : Inv transforming := by
  constructor
  · decide
  · exact fun _ => ⟨rfl, rfl⟩
  · intro h; exact absurd h (by decide)
  · exact fun _ => ⟨rfl, rfl⟩
  · intro _
    unfold CommandInFlight
    rw [show decode transforming.cmdw = .ok .fft by decide]
    exact ⟨by decide, by decide⟩

/-- A recorded fault has the invariant. -/
theorem faulted_inv : Inv (faulted 2 3 State.reset) := by
  constructor
  · exact ⟨by simp [State.reset, faulted], by simp [State.reset, faulted]⟩
  all_goals simp [State.reset, faulted]

theorem witness_StepKeepsInvariant :
    (Inv transforming ∧ ∃ t, step transforming = .next t) ∧
    (Inv transforming ∧ transforming.busy = true) ∧
    (Inv (faulted 2 3 State.reset) ∧ (faulted 2 3 State.reset).err = true) ∧ transforming.err = false ∧
    (mover { transforming with schedule := [.reset] } = .reset ∧
      ∃ t, step { transforming with schedule := [.reset] } = .next t) :=
  ⟨⟨transforming_inv, _, rfl⟩, ⟨transforming_inv, rfl⟩, ⟨faulted_inv, rfl⟩, rfl, rfl, _, rfl⟩

theorem witness_StepNeverStops :
    Inv transforming ∧ transforming.params.unwritten = .anyValue := ⟨transforming_inv, rfl⟩

/-- `CADD` in flight, its sources never written, and written; under both policies. -/
def adding (c : Vector CReg 8) (u : Config.Unwritten) : State :=
  { State.reset with
    cregs := c, params := { lmaxLessOne := 9, unwritten := u }, busy := true, cmdw := 0x21020000 }

theorem witness_ReadsOfUnwrittenWords :
    State.reset.mem.lookup 0 = none ∧ (block 0 0 [(0, ONE)]).mem.lookup 0 = some ONE ∧
    State.reset.cregs[(0 : Reg)].written = false ∧
    (registers one_two three_four czero).cregs[(2 : Reg)].written = true ∧
    ((adding State.reset.cregs .refuse).busy = true ∧
      (expand (.cadd 2 0 1) (adding State.reset.cregs .refuse).nl
        (adding State.reset.cregs .refuse).ll)[(adding State.reset.cregs .refuse).pos.toNat]? =
        some (.cadd 2 0 1) ∧
      issueCheck (adding State.reset.cregs .refuse).params (.cadd 2 0 1) 0 0 = none ∧
      (adding State.reset.cregs .refuse).params.unwritten = .refuse) ∧
    (∃ r ∈ regsRead (.cadd 2 0 1), (adding State.reset.cregs .refuse).cregs[r].written = false) ∧
    (∀ r ∈ regsRead (.cadd 2 0 1),
      (adding (registers one_two three_four czero).cregs .refuse).cregs[r].written = true) ∧
    (∀ e ∈ entriesRead (.cadd 2 0 1), EntryWritten State.reset e) := by
  refine ⟨rfl, by decide, by decide, by decide, ⟨rfl, rfl, rfl, rfl⟩, ⟨0, by decide, by decide⟩,
    by decide, ?_⟩
  simp [entriesRead]

/-- An empty list, a list of one, and a list of 14. -/
theorem witness_CommandsRetire :
    State.reset.busy = false ∧
    (Idle State.reset ∧ State.reset.params.unwritten = .anyValue ∧
      issueCheck State.reset.params .fft State.reset.n State.reset.len = none ∧
      (expand .fft State.reset.n State.reset.len).length = 0) ∧
    (Idle (block 8 0 []) ∧ issueCheck (block 8 0 []).params .fft 8 0 = none ∧
      (expand .fft (block 8 0 []).n (block 8 0 []).len).length = 14 ∧
      13 < (expand .fft (block 8 0 []).n (block 8 0 []).len).length) :=
  ⟨rfl, ⟨reset_idle, rfl, by decide, by decide⟩, ⟨⟨rfl, rfl⟩, by decide, by decide, by decide⟩⟩

/-- The first word from `NL` on, and the words either side of `ZPAD`'s range and `CST`'s entry. -/
theorem witness_FootprintOfEveryCommand :
    (issueCheck transforming.params .fft transforming.nl transforming.ll = none ∧
      (∃ t, exec .fft transforming = .next t) ∧
      ¬ MayWriteWord .fft transforming.nl transforming.ll 4) ∧
    ¬ MayWriteWord .zpad 4 2 3 ∧ ¬ MayWriteWord .zpad 4 2 8 ∧ ¬ MayWriteWord .lift 4 0 6 ∧
    ¬ MayWriteWord (.cst 0 1) 0 0 1 ∧ ¬ MayWriteWord (.cst 0 1) 0 0 4 ∧ ¬ MayWriteWord .nop 0 0 0 := by
  refine ⟨⟨by decide, ⟨_, rfl⟩, ?_⟩, ?_, ?_, ?_, ?_, ?_, ?_⟩
  all_goals
    unfold MayWriteWord
    decide

theorem witness_VectorCommandsIgnoreRegisters :
    NamesNoRegister .fft ∧ NamesNoRegister (.bstage 1) ∧ NamesNoRegister .nop := by
  unfold NamesNoRegister
  simp

theorem witness_CommandsLeaveTheRestAlone :
    (∃ t, exec .fft transforming = .next t) ∧ Instr.fft ≠ .npow2 ∧ transforming.busy = true ∧
    (∃ t, exec .nop State.reset = .next t) ∧ State.reset.busy = false :=
  ⟨⟨_, rfl⟩, by decide, rfl, ⟨_, rfl⟩, rfl⟩

/-- An acceptance, a reset, and a step that is neither. -/
theorem witness_LatchesChangeOnlyAtAcceptance :
    ((hostTrying (.direct (.csrWrite 8 0x04000000))).busy = false ∧
      ∃ t, step (hostTrying (.direct (.csrWrite 8 0x04000000))) = .next t ∧ t.busy = true ∧
        t.cmdw = 0x04000000) ∧
    (mover { transforming with schedule := [.reset] } = .reset ∧
      ∃ t, step { transforming with schedule := [.reset] } = .next t) ∧
    (mover transforming ≠ .reset ∧ ¬ (transforming.busy = false) ∧
      ∃ t, step transforming = .next t) :=
  ⟨⟨rfl, _, rfl, rfl, rfl⟩, ⟨rfl, _, rfl⟩, by decide, by decide, _, rfl⟩

theorem witness_StepRunsTheDecodedCommand :
    (HostTries (hostTrying (.direct (.csrWrite 8 0x04000000))) (.direct (.csrWrite 8 0x04000000)) [] ∧
      Idle (hostTrying (.direct (.csrWrite 8 0x04000000))) ∧ decode 0x04000000 = .ok .nop ∧
      ∃ t, exec .nop { hostTrying (.direct (.csrWrite 8 0x04000000)) with
        held := none, script := [], schedule := [] } = .next t) ∧
    (mover transforming = .sequencer ∧ transforming.busy = true ∧ decode transforming.cmdw = .ok .fft) :=
  ⟨⟨hostTrying_tries _, ⟨rfl, rfl⟩, by decide, _, rfl⟩, rfl, rfl, by decide⟩

theorem witness_NopRuns : Idle State.reset := reset_idle
theorem witness_NextPowerCommandRuns : Idle (block 0 0x80000000 []) := ⟨rfl, rfl⟩

/-- Sources never written under `any value`; written under `refuse`. -/
theorem witness_AddSubtractMultiplyRun :
    (Idle State.reset ∧ RegsReadable State.reset [7, 7]) ∧
    (Idle { registers one_two three_four czero with
        params := { lmaxLessOne := 9, unwritten := .refuse } } ∧
      RegsReadable { registers one_two three_four czero with
        params := { lmaxLessOne := 9, unwritten := .refuse } } [0, 1]) :=
  ⟨⟨reset_idle, .inl rfl⟩, ⟨rfl, rfl⟩, .inr (by decide)⟩

theorem witness_ConjugateAndPolarRun :
    Idle (registers one_two three_four czero) ∧
    RegsReadable (registers one_two three_four czero) [2] := ⟨⟨rfl, rfl⟩, .inl rfl⟩

/-- The first and the last legal twiddle of the default part. -/
theorem witness_TwiddleCommandRuns : Idle State.reset ∧
    (1 ≤ 1 ∧ 1 ≤ State.reset.params.lmax ∧ 0 < 2 ^ (1 - 1)) ∧
    (1 ≤ 10 ∧ 10 ≤ State.reset.params.lmax ∧ 511 < 2 ^ (10 - 1)) :=
  ⟨reset_idle, by decide, by decide⟩

theorem witness_ButterflyCommandRuns : Idle (registers one_two three_four czero) ∧
    (0 : Reg) ≠ 1 ∧ RegsReadable (registers one_two three_four czero) [0, 1, 0] :=
  ⟨⟨rfl, rfl⟩, by decide, .inl rfl⟩

/-- The last entry of the default part, never written and written. -/
theorem witness_LoadAndStoreRun :
    (Idle State.reset ∧ 1023 < State.reset.params.nmax ∧ EntriesReadable State.reset [1023]) ∧
    (EntryWritten (block 0 0 [(2046, ONE), (2047, ONE)]) 1023) ∧ RegsReadable State.reset [0] :=
  ⟨⟨reset_idle, by decide, .inl rfl⟩, ⟨⟨ONE, ONE⟩, by decide, by decide⟩, .inl rfl⟩

/-- Four written entries, and a fifth beyond the length. -/
def fourEntries : State := block 4 2 (realWords [ONE, PZERO, ONE, PZERO, ONE])

theorem fourEntries_written : ∀ i < 4, EntryWritten fourEntries i := by
  intro i hi
  refine ⟨⟨if i % 2 = 0 then ONE else PZERO, PZERO⟩, ?_⟩
  unfold EntryIs
  revert hi
  revert i
  decide

theorem witness_BitReverseCommandRuns :
    Idle fourEntries ∧ 4 = fourEntries.n.toNat ∧ TransformLength fourEntries.n ∧
    4 ≤ fourEntries.params.nmax ∧
    EntriesReadable fourEntries ((List.range 4).filter fun i => rev (log2 4) i ≠ i) ∧
    1 = (expand .bitrev fourEntries.n fourEntries.len).length ∧ rev (log2 4) 1 ≠ 1 ∧
    rev (log2 4) 3 = 3 ∧ ∀ i < 4, EntryWritten fourEntries i :=
  ⟨⟨rfl, rfl⟩, rfl, length4_legal, by decide, .inl rfl, by decide, by decide, by decide,
    fourEntries_written⟩

theorem witness_StageCommandRuns :
    Idle fourEntries ∧ 4 = fourEntries.n.toNat ∧ 2 = 2 ^ (2 - 1) ∧ TransformLength fourEntries.n ∧
    4 ≤ fourEntries.params.nmax ∧ 1 ≤ 2 ∧ 2 ≤ log2 4 ∧ EntriesReadable fourEntries (List.range 4) ∧
    2 = (expand (.bstage 2) fourEntries.n fourEntries.len).length :=
  ⟨⟨rfl, rfl⟩, rfl, rfl, length4_legal, by decide, by decide, by decide, .inl rfl, by decide⟩

theorem fourEntries_holds :
    Holds fourEntries [⟨ONE, PZERO⟩, czero, ⟨ONE, PZERO⟩, czero] := by
  unfold Holds EntryIs
  decide

/-- Lengths 4 and 0. -/
theorem witness_ForwardTransformRuns :
    (Idle fourEntries ∧ [(⟨ONE, PZERO⟩ : Cplx), czero, ⟨ONE, PZERO⟩, czero].length = fourEntries.n.toNat ∧
      TransformLength fourEntries.n ∧ fourEntries.n.toNat ≤ fourEntries.params.nmax ∧
      Holds fourEntries [⟨ONE, PZERO⟩, czero, ⟨ONE, PZERO⟩, czero] ∧
      5 = (expand .fft fourEntries.n fourEntries.len).length) ∧
    (([] : List Cplx).length = State.reset.n.toNat ∧ TransformLength State.reset.n ∧
      Holds State.reset [] ∧ 0 = (expand .fft State.reset.n State.reset.len).length) :=
  ⟨⟨⟨rfl, rfl⟩, rfl, length4_legal, by decide, fourEntries_holds, by decide⟩,
    ⟨rfl, length0_legal, fun i h => absurd h (by simp), by decide⟩⟩

theorem witness_InverseTransformRuns :
    Idle fourEntries ∧ [(⟨ONE, PZERO⟩ : Cplx), czero, ⟨ONE, PZERO⟩, czero].length = fourEntries.n.toNat ∧
    TransformLength fourEntries.n ∧ fourEntries.n.toNat ≤ fourEntries.params.nmax ∧
    Holds fourEntries [⟨ONE, PZERO⟩, czero, ⟨ONE, PZERO⟩, czero] ∧
    13 = (expand .ifft fourEntries.n fourEntries.len).length :=
  ⟨⟨rfl, rfl⟩, rfl, length4_legal, by decide, fourEntries_holds, by decide⟩

/-- A length that is no power of two, and never-written entries. -/
theorem witness_ConjugateVectorRuns : Idle (block 1023 0 []) ∧ 1023 = (block 1023 0 []).n.toNat ∧
    1023 ≤ (block 1023 0 []).params.nmax ∧ EntriesReadable (block 1023 0 []) (List.range 1023) :=
  ⟨⟨rfl, rfl⟩, rfl, by decide, .inl rfl⟩

theorem witness_PostProcessRuns : Idle (block 1024 0 []) ∧ 1024 = (block 1024 0 []).n.toNat ∧
    TransformLength (block 1024 0 []).n ∧ 1024 ≤ (block 1024 0 []).params.nmax ∧
    EntriesReadable (block 1024 0 []) (List.range 1024) :=
  ⟨⟨rfl, rfl⟩, rfl, length1024_legal, by decide, .inl rfl⟩

/-- The original as long as the padded, and of length 0. -/
theorem witness_ZeroPadRuns :
    (Idle (block 6 6 []) ∧ 6 = (block 6 6 []).n.toNat ∧ ((6 : Nat) : Int) = (block 6 6 []).len.toInt ∧
      6 ≤ 6 ∧ 6 ≤ (block 6 6 []).params.nmax) ∧
    (Idle (block 1024 0 []) ∧ ((0 : Nat) : Int) = (block 1024 0 []).len.toInt) :=
  ⟨⟨⟨rfl, rfl⟩, rfl, by decide, le_refl _, by decide⟩, ⟨rfl, rfl⟩, by decide⟩

theorem witness_LiftRuns : Idle (block 1024 0 []) ∧ 1024 = (block 1024 0 []).n.toNat ∧
    1024 ≤ (block 1024 0 []).params.nmax := ⟨⟨rfl, rfl⟩, rfl, by decide⟩

theorem witness_InverseIsThreeCommands : Idle fourEntries ∧ TransformLength fourEntries.n ∧
    fourEntries.n.toNat ≤ fourEntries.params.nmax ∧
    EntriesReadable fourEntries (List.range fourEntries.n.toNat) ∧
    (∀ i < fourEntries.n.toNat, EntryWritten fourEntries i) :=
  ⟨⟨rfl, rfl⟩, length4_legal, by decide, .inl rfl, fourEntries_written⟩

end Sys2Proof.Tests
end

/-! ### Proofs for the family 00_scope: the register commands whole, what no command writes, and the
step as `exec` of the decoded command. -/

namespace Sys2Proof.Proofs

open Sys2Proof.Machine Sys2Proof.Safety

/-! #### The state operations in flight

Issue latches a command into `CMDW`, `NL`, `LL`, `pos` and the status; the reads and writes of a
micro-op do not look there, so each of them commutes with `inFlight`. -/

@[simp] theorem inFlight_cregs (w : Word32) (k : Nat) (s : State) :
    (inFlight w k s).cregs = s.cregs := rfl
@[simp] theorem inFlight_mem (w : Word32) (k : Nat) (s : State) :
    (inFlight w k s).mem = s.mem := rfl
@[simp] theorem inFlight_pos (w : Word32) (k : Nat) (s : State) :
    (inFlight w k s).pos = BitVec.ofNat 32 k := rfl
@[simp] theorem inFlight_nl (w : Word32) (k : Nat) (s : State) : (inFlight w k s).nl = s.n := rfl
@[simp] theorem inFlight_ll (w : Word32) (k : Nat) (s : State) : (inFlight w k s).ll = s.len := rfl

theorem writeReg_inFlight (r : Reg) (v : Cplx) (w : Word32) (k : Nat) (s : State) :
    writeReg r v (inFlight w k s) = inFlight w k (writeReg r v s) := rfl

theorem writeWord_inFlight (j : Nat) (v : F64) (w : Word32) (k : Nat) (s : State) :
    writeWord j v (inFlight w k s) = inFlight w k (writeWord j v s) := rfl

theorem writeEntry_inFlight (i : Nat) (v : Cplx) (w : Word32) (k : Nat) (s : State) :
    writeEntry i v (inFlight w k s) = inFlight w k (writeEntry i v s) := rfl

theorem readReg_inFlight (r : Reg) (w : Word32) (k : Nat) (s : State) :
    readReg r (inFlight w k s) = ((readReg r s).1, inFlight w k (readReg r s).2) := by
  unfold readReg
  rw [inFlight_cregs]
  split <;> rfl

theorem readWord_inFlight (j : Nat) (w : Word32) (k : Nat) (s : State) :
    readWord j (inFlight w k s) = ((readWord j s).1, inFlight w k (readWord j s).2) := by
  unfold readWord
  rw [inFlight_mem]
  split <;> rfl

theorem readEntry_inFlight (i : Nat) (w : Word32) (k : Nat) (s : State) :
    readEntry i (inFlight w k s) = ((readEntry i s).1, inFlight w k (readEntry i s).2) := by
  simp only [readEntry, readWord_inFlight]

/-- By rewriting, step by step: the proof `simp` finds for the two entries and the twiddle is too deep
for the kernel. -/
theorem microBflym_inFlight (a b st m : Nat) (w : Word32) (k : Nat) (s : State) :
    microBflym a b st m (inFlight w k s) = inFlight w k (microBflym a b st m s) := by
  simp only [microBflym]
  rw [readEntry_inFlight a, readEntry_inFlight b, writeEntry_inFlight, writeEntry_inFlight]

/-- Every micro-op but `uSETN`, which writes the `N` that issue latches, does to the command in flight
what it does to the state before issue. -/
theorem perform_inFlight {u : UOp} (hu : ∀ v, u ≠ .setn v) (w : Word32) (k : Nat) (s : State) :
    perform u (inFlight w k s) = inFlight w k (perform u s) := by
  cases u with
  | setn v => exact absurd rfl (hu v)
  | bflym a b st m => exact microBflym_inFlight a b st m w k s
  | _ =>
    simp only [perform, microCadd, microCsub, microCmul, microCconj, microCpolar, microTwid,
      microBflyr, microLd, microSt, microSwap, microConjm, microPostm, microZero, microLift,
      readReg_inFlight, readEntry_inFlight, writeReg_inFlight, writeEntry_inFlight,
      writeWord_inFlight]

/-! #### Reads of registers -/

/-- What a register read answers is an answer in every state with the same register file. -/
theorem regReads_readReg {s t : State} (h : t.cregs = s.cregs) (r : Reg) :
    RegReads s r (readReg r t).1 := by
  intro hw
  rw [← h] at hw ⊢
  exact readReg_value hw

/-- A micro-op that names no entry may be performed when its registers may be read. -/
theorem mayRead_of_regsReadable {u : UOp} {s : State} (hx : entriesRead u = [])
    (hr : RegsReadable s (regsRead u)) : mayRead u s = true := by
  unfold mayRead
  cases hp : s.params.unwritten with
  | anyValue => rfl
  | refuse =>
    rcases hr with hany | hall
    · simp [hany] at hp
    · simpa [readsWritten, hx, regWritten] using hall

theorem namesExist_of_entriesNamed_nil {u : UOp} (hx : entriesNamed u = []) (s : State) :
    namesExist u s = true := by
  simp [namesExist, hx]

/-- A micro-op reads no entry but those it names (R81). -/
theorem entriesRead_subset_entriesNamed (u : UOp) : entriesRead u ⊆ entriesNamed u := by
  cases u <;> simp [entriesRead, entriesNamed]

/-! #### The commands of one micro-op -/

/-- The three steps of a command of one micro-op: issue, the micro-op, the retire step (R27, R218). -/
theorem exec_oneMicroOp {i : Instr} {u : UOp} {s : State} (hs : Idle s)
    (hc : issueCheck s.params i s.n s.len = none) (he : expand i s.n s.len = [u])
    (hu : ∀ v, u ≠ .setn v) (hn : namesExist u s = true) (hm : mayRead u s = true) :
    exec i s = .next (inFlight (encode i) 0 s) ∧
    exec i (inFlight (encode i) 0 s) = .next (inFlight (encode i) 1 (perform u s)) ∧
    exec i (inFlight (encode i) 1 (perform u s)) = .next (finished (encode i) 1 (perform u s)) := by
  obtain ⟨hidle, hfree⟩ := hs
  refine ⟨exec_accepts hidle hfree hc, ?_, ?_⟩
  · calc exec i (inFlight (encode i) 0 s)
        = microStep u (inFlight (encode i) 0 s) := by
          rw [exec_busy rfl, inFlight_nl, inFlight_ll, he, sequencerStep_micro (by simp)]
          rfl
      _ = .next (advance (perform u (inFlight (encode i) 0 s))) := microStep_next hn hm
      _ = .next (inFlight (encode i) 1 (perform u s)) := by rw [perform_inFlight hu]; rfl
  · have hlist : expand i (perform u s).n (perform u s).len = [u] := by
      rw [perform_n s hu, perform_len, he]
    rw [exec_busy rfl, inFlight_nl, inFlight_ll, hlist, sequencerStep_retires (le_refl 1)]
    rfl

/-- `exec_oneMicroOp` for a micro-op on registers alone. -/
theorem exec_registerMicroOp {i : Instr} {u : UOp} {s : State} (hs : Idle s)
    (hc : issueCheck s.params i s.n s.len = none) (he : expand i s.n s.len = [u])
    (hu : ∀ v, u ≠ .setn v) (hx : entriesNamed u = []) (hr : RegsReadable s (regsRead u)) :
    exec i s = .next (inFlight (encode i) 0 s) ∧
    exec i (inFlight (encode i) 0 s) = .next (inFlight (encode i) 1 (perform u s)) ∧
    exec i (inFlight (encode i) 1 (perform u s)) = .next (finished (encode i) 1 (perform u s)) :=
  have hnoEntry : entriesRead u = [] :=
    List.subset_nil.mp (hx ▸ entriesRead_subset_entriesNamed u)
  exec_oneMicroOp hs hc he hu (namesExist_of_entriesNamed_nil hx s)
    (mayRead_of_regsReadable hnoEntry hr)

/-! #### `CADD`, `CSUB`, `CMUL` and `BFLY` whole -/

/-- Where nothing but the count of draws has changed, a register read changes nothing else: so do reads
in sequence. -/
theorem readReg_frame_of {s t : State} (h : t = { s with draws := t.draws }) (r : Reg) :
    (readReg r t).2 = { s with draws := (readReg r t).2.draws } := by
  rw [readReg_frame r t, h]

/-- A register write after two register reads changes that register and the count of draws. -/
theorem writeReg_readReg_readReg (d a b : Reg) (v : Cplx) (s : State) :
    writeReg d v (readReg b (readReg a s).2).2 =
      { s with cregs := s.cregs.set d ⟨true, v⟩
               draws := (readReg b (readReg a s).2).2.draws } :=
  congrArg (writeReg d v) (readReg_frame_of (readReg_frame a s) b)

/-- What `uBFLYR` changes: the two registers of the results and the count of draws. -/
theorem microBflyr_frame (e o w : Reg) (s : State) :
    ∃ x y z k, RegReads s e x ∧ RegReads s o y ∧ RegReads s w z ∧
      microBflyr e o w s = { s with
        cregs := (s.cregs.set e ⟨true, (bfly x y z).1⟩).set o ⟨true, (bfly x y z).2⟩
        draws := k } := by
  have hreads := readReg_frame_of (readReg_frame_of (readReg_frame e s) o) w
  refine ⟨_, _, _, (readReg w (readReg o (readReg e s).2).2).2.draws, regReads_readReg rfl e,
    regReads_readReg (readReg2_cregs e s) o,
    regReads_readReg ((readReg2_cregs o _).trans (readReg2_cregs e s)) w, ?_⟩
  exact congrArg (fun t => writeReg o _ (writeReg e _ t)) hreads

/-- Settles O46: each command is one micro-op, which reads both sources before it writes. -/
theorem addSubtractMultiplyRun : Obligations.AddSubtractMultiplyRun := by
  intro d a b s hs hr
  have hx : RegReads s a (readReg a s).1 := regReads_readReg rfl a
  have hy : RegReads s b (readReg b (readReg a s).2).1 := regReads_readReg (readReg2_cregs a s) b
  exact
    ⟨⟨_, _, _, _, hx, hy, writeReg_readReg_readReg d a b _ s,
      exec_registerMicroOp (u := .cadd d a b) hs rfl rfl nofun rfl hr⟩,
    ⟨_, _, _, _, hx, hy, writeReg_readReg_readReg d a b _ s,
      exec_registerMicroOp (u := .csub d a b) hs rfl rfl nofun rfl hr⟩,
    ⟨_, _, _, _, hx, hy, writeReg_readReg_readReg d a b _ s,
      exec_registerMicroOp (u := .cmul d a b) hs rfl rfl nofun rfl hr⟩⟩

theorem checkBfly_of_ne {e o : Reg} (h : e ≠ o) (w : Reg) : checkBfly e o w = none := by
  simp [checkBfly, operandCheck, h]

/-- Settles O49: the check passes for distinct `e` and `o`, and the one micro-op reads all three
registers before it writes. -/
theorem butterflyCommandRuns : Obligations.ButterflyCommandRuns := by
  intro e o w s hs hne hr
  obtain ⟨x, y, z, k, hx, hy, hz, hframe⟩ := microBflyr_frame e o w s
  exact ⟨x, y, z, k, _, hx, hy, hz, hframe,
    exec_registerMicroOp (u := .bflyr e o w) hs (checkBfly_of_ne hne w) rfl nofun rfl hr⟩

/-! #### What no command writes -/

/-- Only `NPOW2` has `uSETN` in its list. -/
theorem setn_not_mem_expand {i : Instr} (hi : i ≠ .npow2) (nl ll v : Word32) :
    UOp.setn v ∉ expand i nl ll := by
  have hreorder : UOp.setn v ∉ reorder nl.toNat := by simp [reorder]
  have hstage (st : Nat) : UOp.setn v ∉ stage st nl.toNat := by simp [stage, stageUOp]
  have hstages : UOp.setn v ∉ stages nl.toNat := by simp [stages, hstage]
  have hconj : UOp.setn v ∉ conjList nl.toNat := by simp [conjList]
  have hpost : UOp.setn v ∉ postList nl.toNat := by simp [postList]
  cases i with
  | npow2 => exact absurd rfl hi
  | bitrev => exact hreorder
  | bstage st => exact hstage st
  | fft => simp [expand, expandFft, hreorder, hstages]
  | conjv => exact hconj
  | ipost => exact hpost
  | ifft => simp [expand, expandIfft, hconj, hreorder, hstages, hpost]
  | _ =>
    simp [expand, expandNop, expandCadd, expandCsub, expandCmul, expandCconj, expandCpolar,
      expandTwid, expandBfly, expandCld, expandCst, expandZpad, expandLift]

/-- Settles O42, by the five things a step of a command can be. -/
theorem commandsLeaveTheRestAlone : Obligations.CommandsLeaveTheRestAlone := by
  intro i s t h
  rcases exec_eq_next h with ⟨hidle, -, rfl⟩ | ⟨hidle, -, f, -, rfl⟩ | ⟨hidle, -, -, rfl⟩ |
    ⟨hbusy, -, rfl⟩ | ⟨hbusy, u, hu, -, -, rfl⟩
  · simp
  · simp [hidle]
  · simp [hidle]
  · simp [hbusy]
  · have hn (hi : i ≠ .npow2) : (perform u s).n = s.n :=
      perform_n s fun v hv => setn_not_mem_expand hi s.nl s.ll v (hv ▸ List.mem_of_getElem? hu)
    simpa [hbusy] using hn

/-! #### A step is `exec` of the decoded command -/

/-- The step of a host that tries a request is the try of it, the mover's turn used up (R65). -/
theorem step_of_hostTries {s : State} {q : Request} {rest : List ScriptLine}
    (h : HostTries s q rest) : step s = attempt q rest (popSchedule s) := by
  obtain ⟨hmover, ⟨hheld, hscript⟩ | ⟨hheld, hscript⟩⟩ := h
  all_goals
    rw [step_of_host hmover]
    simp [hostTurn, hheld, hscript]

/-- A request that is a transaction and is not held is performed, and is no longer pending. -/
theorem attempt_of_not_held {q : Request} {x : HostTxn} {s : State} (rest : List ScriptLine)
    (hq : requestTxn q = some x) (hfree : isHeld x s = false) :
    attempt q rest s = completeTxn q x { s with held := none, script := rest } := by
  simp [attempt, hq, hfree]

theorem isHeld_of_idle {s : State} (h : s.busy = false) (x : HostTxn) : isHeld x s = false := by
  simp [isHeld, h]

/-- Settles O44: the host's try of a `CMD` write on an idle block is not held and is the issue of its
word; the sequencer's turn while busy is the command in `CMDW`. -/
theorem stepRunsTheDecodedCommand : Obligations.StepRunsTheDecodedCommand := by
  refine ⟨?_, ?_⟩
  · intro s t rest w i htries hs hdecode hexec
    obtain ⟨hidle, hfree⟩ := hs
    have hissue : csrWrite 8 w { popSchedule s with held := none, script := rest } = .next t :=
      Eq.trans (issueWord_ok (s := { popSchedule s with held := none, script := rest })
        hfree hdecode) hexec
    rw [step_of_hostTries htries, attempt_of_not_held (x := .csrWrite 8 w) rest rfl
      (isHeld_of_idle (s := popSchedule s) hidle _)]
    simp only [completeTxn, hissue]
    rfl
  · intro s i hmover hbusy hdecode
    rw [step_of_sequencer hmover]
    exact sequencerTurn_busy hbusy hdecode

end Sys2Proof.Proofs

/-! ### Proofs for the family 10_state: the invariant and what every step keeps, the control registers,
the bridge, the life of a command, and the remaining one-micro-op commands whole. -/

namespace Sys2Proof.Proofs

open Sys2Proof.Machine Sys2Proof.Safety

/-! #### A word that decodes is the word of its command

Every format fixes all the bits that are no operand, so a word of the format is put together again from
its fields (R87, R99). -/

theorem checkFormat_eq_ok {f : Format} {op : Nat} {w : Word32} {i j : Instr}
    (h : checkFormat f op w i = .ok j) : w &&& f.mask = BitVec.ofNat 32 (op * 2 ^ 26) ∧ i = j := by
  unfold checkFormat at h
  split at h
  · exact ⟨‹_›, by simpa using h⟩
  · cases h

/-- Where the mask has only ones, a word has the bits of its masked value. -/
theorem field_of_masked {w m v : Word32} (h : w &&& m = v) {lo width : Nat}
    (hm : field m lo width = 2 ^ width - 1) : field w lo width = field v lo width := by
  have hand : field (w &&& m) lo width = field w lo width &&& field m lo width := by
    simp only [field, BitVec.toNat_and, Nat.and_div_two_pow, Nat.and_mod_two_pow]
  rw [← h, hand, hm, Nat.and_two_pow_sub_one_eq_mod]
  exact (Nat.mod_mod_of_dvd _ dvd_rfl).symm

/-- The field of a word that holds nothing but an opcode. -/
theorem field_opcodeWord {op : Nat} (hop : op < 2 ^ 6) (lo width : Nat) :
    field (BitVec.ofNat 32 (op * 2 ^ 26)) lo width = op * 2 ^ 26 / 2 ^ lo % 2 ^ width := by
  rw [field, BitVec.toNat_ofNat, Nat.mod_eq_of_lt (a := op * 2 ^ 26) (by omega)]

/-- The bits of a word up to a field's end are those below the field and the field. -/
theorem field_zero_add (w : Word32) (lo width : Nat) :
    field w 0 (lo + width) = field w 0 lo + 2 ^ lo * field w lo width := by
  simp only [field, pow_zero, Nat.div_one, pow_add, Nat.mod_mul]

/-- A word is the bits below its opcode field and the opcode. -/
theorem toNat_eq_low_add_opcode (w : Word32) : w.toNat = field w 0 26 + 2 ^ 26 * field w 26 6 := by
  rw [← field_zero_add, field, pow_zero, Nat.div_one, Nat.mod_eq_of_lt w.isLt]

theorem val_regField (w : Word32) (lo : Nat) : (Fin.ofNat 8 (field w lo 3)).val = field w lo 3 :=
  Nat.mod_eq_of_lt (Nat.mod_lt _ (by decide))

section Formats

variable {op : Nat} {w : Word32} {i j : Instr} (hop : op < 2 ^ 6)
include hop

/-- The bits that a format fixes, in a word of that format. -/
theorem field_of_checkFormat {f : Format} (h : checkFormat f op w i = .ok j) {lo width : Nat}
    (hm : field f.mask lo width = 2 ^ width - 1) :
    field w lo width = op * 2 ^ 26 / 2 ^ lo % 2 ^ width := by
  rw [field_of_masked (checkFormat_eq_ok h).1 hm, field_opcodeWord hop]

/-- A word of a format is assembled from its opcode and the bits below it. -/
theorem assemble_of_checkFormat {f : Format} {operands : Nat} (h : checkFormat f op w i = .ok j)
    (hf : field f.mask 26 6 = 2 ^ 6 - 1) (hlow : field w 0 26 = operands) :
    assemble op operands = w := by
  have hopcode := field_of_checkFormat hop h hf
  refine BitVec.eq_of_toNat_eq ?_
  rw [assemble, BitVec.toNat_ofNat, toNat_eq_low_add_opcode w, hlow, hopcode]
  have : operands < 2 ^ 26 := hlow ▸ Nat.mod_lt _ (by decide)
  omega

theorem assemble_of_r3 (h : checkFormat .r3 op w i = .ok j) :
    assemble op (bitsR3 (fieldRd w) (fieldRa w) (fieldRb w)) = w := by
  have hzero := field_of_checkFormat hop h (lo := 0) (width := 17) (by decide)
  refine assemble_of_checkFormat hop h (by decide) ?_
  rw [bitsR3, fieldRd, fieldRa, fieldRb, val_regField, val_regField, val_regField,
    field_zero_add w 23 3, field_zero_add w 20 3, field_zero_add w 17 3]
  omega

theorem assemble_of_r2 (h : checkFormat .r2 op w i = .ok j) :
    assemble op (bitsR2 (fieldRd w) (fieldRa w)) = w := by
  have hzero := field_of_checkFormat hop h (lo := 0) (width := 20) (by decide)
  refine assemble_of_checkFormat hop h (by decide) ?_
  rw [bitsR2, fieldRd, fieldRa, val_regField, val_regField, field_zero_add w 23 3,
    field_zero_add w 20 3]
  omega

theorem assemble_of_t (h : checkFormat .t op w i = .ok j) :
    assemble op (bitsT (fieldRd w) (fieldS w) (fieldLow16 w)) = w := by
  have hzero := field_of_checkFormat hop h (lo := 16) (width := 2) (by decide)
  refine assemble_of_checkFormat hop h (by decide) ?_
  rw [bitsT, fieldRd, fieldS, fieldLow16, val_regField, field_zero_add w 23 3,
    field_zero_add w 18 5, field_zero_add w 16 2]
  omega

theorem assemble_of_m (h : checkFormat .m op w i = .ok j) :
    assemble op (bitsM (fieldRd w) (fieldLow16 w)) = w := by
  have hzero := field_of_checkFormat hop h (lo := 16) (width := 7) (by decide)
  refine assemble_of_checkFormat hop h (by decide) ?_
  rw [bitsM, fieldRd, fieldLow16, val_regField, field_zero_add w 23 3, field_zero_add w 16 7]
  omega

theorem assemble_of_s (h : checkFormat .s op w i = .ok j) : assemble op (bitsS (fieldS w)) = w := by
  have hhigh := field_of_checkFormat hop h (lo := 23) (width := 3) (by decide)
  have hzero := field_of_checkFormat hop h (lo := 0) (width := 18) (by decide)
  refine assemble_of_checkFormat hop h (by decide) ?_
  rw [bitsS, fieldS, field_zero_add w 23 3, field_zero_add w 18 5]
  omega

theorem assemble_of_z (h : checkFormat .z op w i = .ok j) : assemble op 0 = w := by
  have hzero := field_of_checkFormat hop h (lo := 0) (width := 26) (by decide)
  refine assemble_of_checkFormat hop h (by decide) ?_
  omega

end Formats

theorem opcode_lt (i : Instr) : i.opcode < 2 ^ 6 := by
  cases i <;> simp [Instr.opcode]

/-- The word of a command that decodes is that command's one encoding (R96, R99). -/
theorem encode_of_decode {w : Word32} {i : Instr} (h : decode w = .ok i) : encode i = w := by
  unfold decode at h
  split at h
  case h_20 => cases h
  all_goals obtain rfl := (checkFormat_eq_ok h).2
  case h_1 | h_11 | h_13 | h_14 | h_15 | h_16 | h_17 | h_18 | h_19 =>
    exact assemble_of_z (opcode_lt _) h
  case h_2 | h_3 | h_4 | h_8 => exact assemble_of_r3 (opcode_lt _) h
  case h_5 | h_6 => exact assemble_of_r2 (opcode_lt _) h
  case h_7 => exact assemble_of_t (opcode_lt _) h
  case h_9 | h_10 => exact assemble_of_m (opcode_lt _) h
  case h_12 => exact assemble_of_s (opcode_lt _) h

/-! #### The micro-op lists stay inside the entries that exist

A command whose checks pass has a length that is 0 or a power of two where its list depends on that,
and a list that names entries below `NMAX` only (R81, R219). -/

theorem ispow2_eq_true {n : Nat} (h : ispow2 n = true) : ∃ p, n = 2 ^ p := by
  obtain ⟨hpos, hand⟩ : 1 ≤ n ∧ n &&& (n - 1) = 0 := by simpa [ispow2] using h
  exact Nat.ne_zero_and_sub_one_eq_zero_iff_isPowerOfTwo.mp ⟨by omega, hand⟩

@[simp] theorem log2_two_pow (p : Nat) : log2 (2 ^ p) = p := Nat.log2_two_pow

theorem rev_lt (p i : Nat) : rev p i < 2 ^ p := by
  induction p generalizing i with
  | zero => simp [rev]
  | succ p ih =>
    have hbit : i % 2 * 2 ^ p ≤ 1 * 2 ^ p := Nat.mul_le_mul_right _ (by omega)
    have hlow := ih (i / 2)
    rw [rev, pow_succ]
    omega

/-- `NL` is 0 or a power of two: the lengths of the lists that reorder and of the stages. -/
def ZeroOrPow2 (n : Nat) : Prop := n = 0 ∨ ∃ p, n = 2 ^ p

theorem lengthCheck_eq_none {nl : Word32} (h : lengthCheck nl = none) : ZeroOrPow2 nl.toNat := by
  unfold lengthCheck at h
  split at h
  case isTrue hlen => exact hlen.imp_right ispow2_eq_true
  case isFalse => cases h

theorem capacityCheck_eq_none {nmax : Nat} {nl : Word32} (h : capacityCheck nmax nl = none) :
    nl.toNat ≤ nmax := by
  unfold capacityCheck at h
  split at h
  · assumption
  · cases h

theorem operandCheck_eq_none {ok : Bool} {info : Word32} (h : operandCheck ok info = none) :
    ok = true := by
  unfold operandCheck at h
  split at h
  · assumption
  · cases h

theorem transformCheck_eq_none {nmax : Nat} {nl : Word32} (h : transformCheck nmax nl = none) :
    ZeroOrPow2 nl.toNat ∧ nl.toNat ≤ nmax := by
  obtain ⟨hlen, hcap⟩ := Option.or_eq_none_iff.mp h
  exact ⟨lengthCheck_eq_none hlen, capacityCheck_eq_none hcap⟩

theorem checkBstage_eq_none {nmax st : Nat} {nl : Word32} (h : checkBstage nmax st nl = none) :
    ZeroOrPow2 nl.toNat ∧ nl.toNat ≤ nmax ∧ 1 ≤ st ∧ st ≤ log2 nl.toNat := by
  obtain ⟨htrans, hstage⟩ := Option.or_eq_none_iff.mp h
  obtain ⟨hlen, hcap⟩ := transformCheck_eq_none htrans
  have hrange := operandCheck_eq_none hstage
  simp only [stageInRange, Bool.and_eq_true, decide_eq_true_eq] at hrange
  exact ⟨hlen, hcap, hrange⟩

theorem reorder_entries_lt {n e : Nat} {u : UOp} (hn : ZeroOrPow2 n) (hu : u ∈ reorder n)
    (he : e ∈ entriesNamed u) : e < n := by
  obtain ⟨i, hi, hswap⟩ := List.mem_filterMap.mp hu
  rw [List.mem_range] at hi
  split at hswap
  case isFalse => cases hswap
  case isTrue hlt =>
    cases hswap
    have hrev : rev (log2 n) i < n := by
      rcases hn with rfl | ⟨p, rfl⟩
      · omega
      · simpa using rev_lt p i
    rcases (by simpa [entriesNamed] using he : e = i ∨ e = rev (log2 n) i) with rfl | rfl
    · exact hi
    · exact hrev

/-- The lower entry of butterfly `i` of a stage is below `NL`, and so is the upper (R169). -/
theorem stage_lower_lt {st p i : Nat} (hst : 1 ≤ st) (hp : st ≤ p) (hi : i < 2 ^ p / 2) :
    i / 2 ^ (st - 1) * 2 ^ st + i % 2 ^ (st - 1) + 2 ^ (st - 1) < 2 ^ p := by
  obtain ⟨q, rfl⟩ : ∃ q, st = q + 1 := ⟨st - 1, by omega⟩
  obtain ⟨r, rfl⟩ : ∃ r, p = q + 1 + r := ⟨p - (q + 1), by omega⟩
  rw [Nat.add_sub_cancel]
  have hspan : 2 ^ (q + 1) = 2 * 2 ^ q := by ring
  have hlength : 2 ^ (q + 1 + r) = 2 * (2 ^ r * 2 ^ q) := by ring
  have hblock : i / 2 ^ q < 2 ^ r := by
    rw [Nat.div_lt_iff_lt_mul (Nat.two_pow_pos q)]
    omega
  have hindex : i % 2 ^ q < 2 ^ q := Nat.mod_lt _ (Nat.two_pow_pos q)
  have hblocks : (i / 2 ^ q + 1) * 2 ^ q ≤ 2 ^ r * 2 ^ q := Nat.mul_le_mul_right _ hblock
  calc i / 2 ^ q * 2 ^ (q + 1) + i % 2 ^ q + 2 ^ q
      < i / 2 ^ q * 2 ^ (q + 1) + 2 ^ q + 2 ^ q := by omega
    _ = 2 * ((i / 2 ^ q + 1) * 2 ^ q) := by rw [hspan]; ring
    _ ≤ 2 ^ (q + 1 + r) := by rw [hlength]; omega

theorem stage_entries_lt {st n e : Nat} {u : UOp} (hn : ZeroOrPow2 n) (hst : 1 ≤ st)
    (hlog : st ≤ log2 n) (hu : u ∈ stage st n) (he : e ∈ entriesNamed u) : e < n := by
  obtain ⟨i, hi, rfl⟩ := List.mem_map.mp hu
  rw [List.mem_range] at hi
  rcases hn with rfl | ⟨p, rfl⟩
  · omega
  · rw [log2_two_pow] at hlog
    have hlower := stage_lower_lt hst hlog hi
    simp only [stageUOp, entriesNamed, List.mem_cons, List.not_mem_nil, or_false] at he
    omega

theorem stages_entries_lt {n e : Nat} {u : UOp} (hn : ZeroOrPow2 n) (hu : u ∈ stages n)
    (he : e ∈ entriesNamed u) : e < n := by
  obtain ⟨j, hj, hstage⟩ := List.mem_flatMap.mp hu
  rw [List.mem_range] at hj
  exact stage_entries_lt hn (by omega) (by omega) hstage he

/-- A list of one micro-op for each entry below `n`, naming that entry alone. -/
theorem entries_lt_of_each {n e : Nat} {f : Nat → UOp} {u : UOp} (hf : ∀ i, entriesNamed (f i) = [i])
    (hu : u ∈ (List.range n).map f) (he : e ∈ entriesNamed u) : e < n := by
  obtain ⟨i, hi, rfl⟩ := List.mem_map.mp hu
  obtain rfl : e = i := by simpa [hf] using he
  exact List.mem_range.mp hi

theorem expandZpad_entries_lt {nl ll : Word32} {e : Nat} {u : UOp} (hu : u ∈ expandZpad nl ll)
    (he : e ∈ entriesNamed u) : e < nl.toNat := by
  obtain ⟨i, hi, rfl⟩ := List.mem_map.mp hu
  obtain rfl : e = ll.toInt.toNat + i := by simpa [entriesNamed] using he
  rw [List.mem_range] at hi
  omega

theorem expandFft_entries_lt {nl : Word32} {e : Nat} {u : UOp} (hn : ZeroOrPow2 nl.toNat)
    (hu : u ∈ expandFft nl) (he : e ∈ entriesNamed u) : e < nl.toNat := by
  rcases List.mem_append.mp hu with hu | hu
  · exact reorder_entries_lt hn hu he
  · exact stages_entries_lt hn hu he

theorem expandIfft_entries_lt {nl : Word32} {e : Nat} {u : UOp} (hn : ZeroOrPow2 nl.toNat)
    (hu : u ∈ expandIfft nl) (he : e ∈ entriesNamed u) : e < nl.toNat := by
  rcases List.mem_append.mp hu with hu | hu
  · rcases List.mem_append.mp hu with hu | hu
    · exact entries_lt_of_each (fun _ => rfl) hu he
    · exact expandFft_entries_lt hn hu he
  · exact entries_lt_of_each (fun _ => rfl) hu he

/-- A micro-op of a command whose checks passed names only entries that exist (R81). -/
theorem entriesNamed_lt_nmax {p : Config.Params} {i : Instr} {nl ll : Word32} {u : UOp} {e : Nat}
    (hc : issueCheck p i nl ll = none) (hu : u ∈ expand i nl ll) (he : e ∈ entriesNamed u) :
    e < p.nmax := by
  cases i with
  | cld d idx =>
    obtain rfl := List.mem_singleton.mp hu
    obtain rfl : e = idx := by simpa [entriesNamed] using he
    simpa using operandCheck_eq_none hc
  | cst d idx =>
    obtain rfl := List.mem_singleton.mp hu
    obtain rfl : e = idx := by simpa [entriesNamed] using he
    simpa using operandCheck_eq_none hc
  | bitrev =>
    obtain ⟨hn, hcap⟩ := transformCheck_eq_none hc
    exact (reorder_entries_lt hn hu he).trans_le hcap
  | bstage st =>
    obtain ⟨hn, hcap, hst, hlog⟩ := checkBstage_eq_none hc
    exact (stage_entries_lt hn hst hlog hu he).trans_le hcap
  | fft =>
    obtain ⟨hn, hcap⟩ := transformCheck_eq_none hc
    exact (expandFft_entries_lt hn hu he).trans_le hcap
  | ifft =>
    obtain ⟨hn, hcap⟩ := transformCheck_eq_none hc
    exact (expandIfft_entries_lt hn hu he).trans_le hcap
  | conjv => exact (entries_lt_of_each (fun _ => rfl) hu he).trans_le (capacityCheck_eq_none hc)
  | ipost => exact (entries_lt_of_each (fun _ => rfl) hu he).trans_le (transformCheck_eq_none hc).2
  | zpad =>
    exact (expandZpad_entries_lt hu he).trans_le
      (capacityCheck_eq_none (Option.or_eq_none_iff.mp hc).1)
  | lift => exact (entries_lt_of_each (fun _ => rfl) hu he).trans_le (capacityCheck_eq_none hc)
  | _ =>
    obtain rfl := List.mem_singleton.mp hu
    cases he

theorem namesExist_of_issueCheck {i : Instr} {nl ll : Word32} {u : UOp} {s : State}
    (hc : issueCheck s.params i nl ll = none) (hu : u ∈ expand i nl ll) : namesExist u s = true :=
  List.all_eq_true.mpr fun _ he => decide_eq_true (entriesNamed_lt_nmax hc hu he)

/-! #### What a step does to the block

The host's side of the state, the schedule and the count of draws are not the block's.  So a host's
step leaves the block as it was, or writes a word of an idle block's data memory, or writes a control
register. -/

/-- `t` is `s` but for the host's side, the schedule and the count of draws. -/
def SameBlock (s t : State) : Prop :=
  t = { s with
    draws := t.draws, script := t.script, held := t.held, schedule := t.schedule
    responses := t.responses }

theorem sameBlock_respond (r : Response) (s : State) : SameBlock s (respond r s) := rfl

theorem SameBlock.trans {s t u : State} (hst : SameBlock s t) (htu : SameBlock t u) :
    SameBlock s u := by
  unfold SameBlock at *
  rw [htu, hst]

theorem sameBlock_readWord (j : Nat) (s : State) : SameBlock s (readWord j s).2 := by
  unfold SameBlock
  rw [readWord_frame]

/-- The state in which a transaction is performed: the turn used up, the request no longer pending. -/
def pending (rest : List ScriptLine) (s : State) : State :=
  { popSchedule s with held := none, script := rest }

theorem sameBlock_pending (rest : List ScriptLine) (s : State) : SameBlock s (pending rest s) := rfl

/-- What a host's step can do: try a request, or leave the block alone. -/
theorem hostStep_eq_next {s t : State} (hmover : mover s = .host) (h : step s = .next t) :
    SameBlock s t ∨ ∃ q rest, HostTries s q rest ∧ attempt q rest (popSchedule s) = .next t := by
  rw [step_of_host hmover] at h
  unfold hostTurn at h
  split at h
  case h_1 q hheld => exact .inr ⟨q, _, ⟨hmover, .inl ⟨hheld, rfl⟩⟩, h⟩
  case h_2 hheld =>
    split at h
    case h_1 => cases h; exact .inl rfl
    case h_2 q rest hscript => exact .inr ⟨q, rest, ⟨hmover, .inr ⟨hheld, hscript⟩⟩, h⟩
    case h_3 => cases h; exact .inl rfl

/-- What a host's step can do to the block (R63 to R67, R70). -/
theorem hostStep_cases {s t : State} (hmover : mover s = .host) (h : step s = .next t) :
    SameBlock s t ∨
    (∃ j v, j < s.wordCount ∧ SameBlock (writeWord j v s) t) ∨
    (∃ q rest x v u, HostTries s q rest ∧ requestTxn q = some (.csrWrite x v) ∧
      isHeld (.csrWrite x v) s = false ∧ csrWrite x v (pending rest s) = .next u ∧ SameBlock u t) := by
  rcases hostStep_eq_next hmover h with hsame | ⟨q, rest, htries, hattempt⟩
  · exact .inl hsame
  rcases attempt_eq_next hattempt with ⟨-, rfl⟩ | ⟨x, -, -, rfl⟩ | ⟨x, hq, hfree, hdone⟩
  · exact .inl rfl
  · exact .inl rfl
  rcases completeTxn_eq_next hdone with ⟨_, _, -, rfl⟩ | ⟨y, v, _, u, rfl, hu, rfl⟩ |
    ⟨j, _, -, -, rfl⟩ | ⟨j, v, _, rfl, hj, rfl⟩ | rfl
  · exact .inl rfl
  · exact .inr (.inr ⟨q, rest, y, v, u, htries, hq, hfree, hu, sameBlock_respond _ _⟩)
  · exact .inl ((sameBlock_pending rest s).trans
      ((sameBlock_readWord j _).trans (sameBlock_respond _ _)))
  · exact .inr (.inl ⟨j, v, hj, rfl⟩)
  · exact .inl rfl

/-- What the issue procedure can do in an idle block: nothing, a fault, or the acceptance of the word
of a command whose checks pass (R218). -/
theorem issueWord_idle_eq_next {w : Word32} {s t : State} (hidle : s.busy = false)
    (h : issueWord w s = .next t) :
    t = s ∨ (∃ c info, t = raiseFault c info s) ∨
    (∃ i, decode w = .ok i ∧ s.err = false ∧ issueCheck s.params i s.n s.len = none ∧
      t = accept w s) := by
  rcases issueWord_eq_next h with ⟨-, rfl⟩ | ⟨-, e, -, rfl⟩ | ⟨-, i, hdecode, hexec⟩
  · exact .inl rfl
  · exact .inr (.inl ⟨_, _, rfl⟩)
  rcases exec_eq_next hexec with ⟨-, -, rfl⟩ | ⟨-, -, f, -, rfl⟩ | ⟨-, hfree, hcheck, rfl⟩ |
    ⟨hbusy, -⟩ | ⟨hbusy, -⟩
  · exact .inl rfl
  · exact .inr (.inl ⟨_, _, rfl⟩)
  · exact .inr (.inr ⟨i, hdecode, hfree, hcheck, by rw [encode_of_decode hdecode]⟩)
  all_goals simp [hidle] at hbusy

/-- What the sequencer's step can do (R27): nothing when idle, else retire or perform the micro-op at
`pos` of the list of the command in `CMDW`. -/
theorem sequencerTurn_eq_next {s t : State} (h : sequencerTurn s = .next t) :
    (s.busy = false ∧ t = s) ∨
    (s.busy = true ∧ t = retire s) ∨
    (s.busy = true ∧ ∃ i u, decode s.cmdw = .ok i ∧ (expand i s.nl s.ll)[s.pos.toNat]? = some u ∧
      namesExist u s = true ∧ t = advance (perform u s)) := by
  cases hbusy : s.busy with
  | false =>
    rw [sequencerTurn_idle hbusy] at h
    cases h
    exact .inl ⟨rfl, rfl⟩
  | true =>
    cases hdecode : decode s.cmdw with
    | error e =>
      rw [sequencerTurn, if_pos hbusy, hdecode] at h
      cases h
    | ok i =>
      rw [sequencerTurn_busy hbusy hdecode, exec_busy hbusy] at h
      rcases sequencerStep_eq_next h with ⟨-, rfl⟩ | ⟨u, hu, hn, -, rfl⟩
      · exact .inr (.inl ⟨rfl, rfl⟩)
      · exact .inr (.inr ⟨rfl, i, u, rfl, hu, hn, rfl⟩)

/-- A write of `CMD` that is not held finds an idle block (R64). -/
theorem idle_of_cmdWrite_free {v : Word32} {s : State} (h : isHeld (.csrWrite 8 v) s = false) :
    s.busy = false := by
  simpa [isHeld] using h

/-- A write of `CTRL` with `CLR` set clears the record (R34). -/
theorem writeCtrl_of_clr {v : Word32} (s : State) (h : v.getLsbD 1 = true) : writeCtrl v s =
    { s with ie := v.getLsbD 0, done := false, err := false, cause := 0, errinfo := 0 } := by
  rw [writeCtrl, if_pos h, clearRecord]

theorem writeCtrl_of_noClr {v : Word32} (s : State) (h : v.getLsbD 1 = false) :
    writeCtrl v s = { s with ie := v.getLsbD 0 } := by
  rw [writeCtrl, h]
  rfl

/-! #### The invariant -/

/-- The invariant speaks of the block alone. -/
theorem inv_of_sameBlock {s t : State} (hst : SameBlock s t) (h : Inv s) : Inv t := by
  rw [hst]
  exact ⟨h.memory, h.busyClean, h.errRecorded, h.errFree, h.inFlight⟩

theorem commandInFlight_iff {s : State} : CommandInFlight s ↔
    ∃ i, decode s.cmdw = .ok i ∧ issueCheck s.params i s.nl s.ll = none ∧
      s.pos.toNat ≤ (expand i s.nl s.ll).length := by
  unfold CommandInFlight
  cases decode s.cmdw <;> simp

theorem cause_code_range (c : Cause) : 1 ≤ c.code.toNat ∧ c.code.toNat ≤ 4 := by
  cases c <;> decide

theorem inv_raiseFault {s : State} (c : Cause) (info : Word32) (h : Inv s) (hidle : s.busy = false) :
    Inv (raiseFault c info s) where
  memory := h.memory
  busyClean hbusy := by simp [hidle] at hbusy
  errRecorded _ := ⟨rfl, cause_code_range c⟩
  errFree herr := by simp at herr
  inFlight hbusy := by simp [hidle] at hbusy

theorem inv_accept {w : Word32} {i : Instr} {s : State} (h : Inv s) (hdecode : decode w = .ok i)
    (hfree : s.err = false) (hcheck : issueCheck s.params i s.n s.len = none) : Inv (accept w s) where
  memory := h.memory
  busyClean _ := ⟨rfl, hfree⟩
  errRecorded herr := by simp [hfree] at herr
  errFree _ := h.errFree hfree
  inFlight _ := commandInFlight_iff.mpr ⟨i, hdecode, hcheck, Nat.zero_le _⟩

theorem inv_retire {s : State} (h : Inv s) (hbusy : s.busy = true) : Inv (retire s) where
  memory := h.memory
  busyClean hbusy' := by simp at hbusy'
  errRecorded herr := by simp [(h.busyClean hbusy).2] at herr
  errFree herr := h.errFree herr
  inFlight hbusy' := by simp at hbusy'

/-- A micro-op of the list moves `pos` to at most its end. -/
theorem inv_microOp {i : Instr} {u : UOp} {s : State} (h : Inv s) (hdecode : decode s.cmdw = .ok i)
    (hu : (expand i s.nl s.ll)[s.pos.toNat]? = some u) (hn : namesExist u s = true) :
    Inv (advance (perform u s)) where
  memory := by simpa [State.wordCount] using perform_wf hn h.memory
  busyClean hbusy := by simpa using h.busyClean (by simpa using hbusy)
  errRecorded herr := by simpa using h.errRecorded (by simpa using herr)
  errFree herr := by simpa using h.errFree (by simpa using herr)
  inFlight hbusy := by
    obtain ⟨j, hj, hcheck, -⟩ := commandInFlight_iff.mp (h.inFlight (by simpa using hbusy))
    obtain rfl : i = j := by simpa [hdecode] using hj
    obtain ⟨hlt, -⟩ := List.getElem?_eq_some_iff.mp hu
    refine commandInFlight_iff.mpr ⟨i, by simpa using hdecode, by simpa using hcheck, ?_⟩
    simp only [advance_pos, advance_nl, advance_ll, perform_pos, perform_nl, perform_ll,
      BitVec.toNat_add]
    exact (Nat.mod_le _ _).trans hlt

theorem inv_writeCtrl {s : State} (v : Word32) (h : Inv s) : Inv (writeCtrl v s) := by
  cases hclr : v.getLsbD 1 with
  | true =>
    rw [writeCtrl_of_clr s hclr]
    exact ⟨h.memory, fun _ => ⟨rfl, rfl⟩, nofun, fun _ => ⟨rfl, rfl⟩, h.inFlight⟩
  | false =>
    rw [writeCtrl_of_noClr s hclr]
    exact ⟨h.memory, h.busyClean, h.errRecorded, h.errFree, h.inFlight⟩

theorem inv_csrWrite {x : Fin 16} {v : Word32} {s t : State} (h : Inv s)
    (hfree : isHeld (.csrWrite x v) s = false) (ht : csrWrite x v s = .next t) : Inv t := by
  rcases csrWrite_eq_next ht with ⟨-, rfl⟩ | ⟨-, rfl⟩ | ⟨-, rfl⟩ | ⟨rfl, hissue⟩ | rfl
  · exact inv_writeCtrl v h
  · exact ⟨h.memory, h.busyClean, h.errRecorded, h.errFree, h.inFlight⟩
  · exact ⟨h.memory, h.busyClean, h.errRecorded, h.errFree, h.inFlight⟩
  · have hidle := idle_of_cmdWrite_free hfree
    rcases issueWord_idle_eq_next hidle hissue with rfl | ⟨c, info, rfl⟩ |
      ⟨i, hdecode, herr, hcheck, rfl⟩
    · exact h
    · exact inv_raiseFault c info h hidle
    · exact inv_accept h hdecode herr hcheck
  · exact h

theorem inv_writeWord {j : Nat} {s : State} (v : F64) (h : Inv s) (hj : j < s.wordCount) :
    Inv (writeWord j v s) :=
  ⟨write_wf j v hj h.memory, h.busyClean, h.errRecorded, h.errFree, h.inFlight⟩

theorem inv_resetBlock (s : State) : Inv (resetBlock s) where
  memory := nil_wf _
  busyClean hbusy := by cases hbusy
  errRecorded herr := by cases herr
  errFree _ := ⟨rfl, rfl⟩
  inFlight hbusy := by cases hbusy

theorem step_keeps_inv {s t : State} (h : Inv s) (ht : step s = .next t) : Inv t := by
  rcases step_cases s with ⟨hmover, -⟩ | ⟨-, hstep⟩ | ⟨-, hstep⟩
  · rcases hostStep_cases hmover ht with hsame | ⟨j, v, hj, hsame⟩ |
      ⟨q, rest, x, v, u, -, -, hfree, hu, hsame⟩
    · exact inv_of_sameBlock hsame h
    · exact inv_of_sameBlock hsame (inv_writeWord v h hj)
    · exact inv_of_sameBlock hsame
        (inv_csrWrite (inv_of_sameBlock (sameBlock_pending rest s) h) hfree hu)
  · have hpop : Inv (popSchedule s) := inv_of_sameBlock rfl h
    rcases sequencerTurn_eq_next (hstep ▸ ht) with ⟨-, rfl⟩ | ⟨hbusy, rfl⟩ |
      ⟨-, i, u, hdecode, hu, hn, rfl⟩
    · exact hpop
    · exact inv_retire hpop hbusy
    · exact inv_microOp hpop hdecode hu hn
  · cases hstep.symm.trans ht
    exact inv_resetBlock _

/-- Settles O36, by what each of the three agents' steps can do to the block. -/
theorem stepKeepsInvariant : Obligations.StepKeepsInvariant := by
  refine ⟨fun s t => step_keeps_inv, fun s t hreset ht => ?_, fun s h => ?_⟩
  · cases (step_of_reset hreset).symm.trans ht
    exact inv_resetBlock _
  · refine ⟨h.busyClean, h.errRecorded, h.errFree, fun hbusy => ?_⟩
    obtain ⟨i, hdecode, -, hpos⟩ := commandInFlight_iff.mp (h.inFlight hbusy)
    exact ⟨i, hdecode, hpos⟩

/-- Settles O35: the reset state is a reset block. -/
theorem invariantAtReset : Obligations.InvariantAtReset :=
  inv_resetBlock State.reset

/-! #### No step stops

A step goes on to a next state, or it is the refusal of R57 in a part with `UNWRITTEN = refuse`. -/

/-- The step goes on, or is refused as the part's `UNWRITTEN = refuse` says. -/
def GoesOn (s : State) (o : Result) : Prop :=
  (∃ t, o = .next t) ∨ (s.params.unwritten = .refuse ∧ o = .refused .unwrittenRead)

theorem goesOn_next (s t : State) : GoesOn s (.next t) := .inl ⟨t, rfl⟩

theorem issueWord_idle_goesOn (w : Word32) {s : State} (hidle : s.busy = false) :
    ∃ t, issueWord w s = .next t := by
  cases herr : s.err with
  | true => exact ⟨s, issueWord_discarded herr⟩
  | false =>
    cases hdecode : decode w with
    | error e => exact ⟨_, issueWord_illegal herr hdecode⟩
    | ok i => exact ⟨_, (issueWord_ok herr hdecode).trans (exec_idle hidle)⟩

theorem csrWrite_goesOn {x : Fin 16} {v : Word32} {s : State}
    (hfree : isHeld (.csrWrite x v) s = false) : ∃ t, csrWrite x v s = .next t := by
  unfold csrWrite
  split
  case h_4 hx =>
    obtain rfl : x = 8 := Fin.ext hx
    exact issueWord_idle_goesOn v (idle_of_cmdWrite_free hfree)
  all_goals exact ⟨_, rfl⟩

theorem completeTxn_goesOn {q : Request} {x : HostTxn} {s : State} (hfree : isHeld x s = false) :
    GoesOn s (completeTxn q x s) := by
  cases x with
  | csrRead x => exact goesOn_next _ _
  | csrWrite x v =>
    obtain ⟨t, ht⟩ := csrWrite_goesOn hfree
    rw [completeTxn, ht]
    exact goesOn_next _ _
  | memRead j =>
    simp only [completeTxn]
    split
    · split
      case isTrue hrefuse => exact .inr ⟨hrefuse.1, rfl⟩
      case isFalse => exact goesOn_next _ _
    · exact goesOn_next _ _
  | memWrite j v =>
    simp only [completeTxn]
    split <;> exact goesOn_next _ _

theorem attempt_goesOn (q : Request) (rest : List ScriptLine) (s : State) :
    GoesOn s (attempt q rest s) := by
  unfold attempt
  split
  · exact goesOn_next _ _
  · split
    case isTrue => exact goesOn_next _ _
    case isFalse hheld =>
      exact completeTxn_goesOn (s := { s with held := none, script := rest })
        (Bool.eq_false_of_not_eq_true hheld)

theorem hostTurn_goesOn (s : State) : GoesOn s (hostTurn s) := by
  unfold hostTurn
  split
  · exact attempt_goesOn _ _ _
  · split
    · exact goesOn_next _ _
    · exact attempt_goesOn _ _ _
    · exact goesOn_next _ _

/-- A micro-op whose entries exist runs where it may read, and is refused elsewhere. -/
theorem microStep_goesOn {u : UOp} {s : State} (hn : namesExist u s = true) :
    GoesOn s (microStep u s) := by
  cases hmay : mayRead u s with
  | true => exact .inl ⟨_, microStep_next hn hmay⟩
  | false =>
    refine .inr ⟨?_, by simp [microStep, hn, hmay]⟩
    cases hpolicy : s.params.unwritten with
    | anyValue => simp [mayRead, hpolicy] at hmay
    | refuse => rfl

theorem sequencerTurn_goesOn {s : State} (h : Inv s) : GoesOn s (sequencerTurn s) := by
  cases hbusy : s.busy with
  | false =>
    rw [sequencerTurn_idle hbusy]
    exact goesOn_next _ _
  | true =>
    obtain ⟨i, hdecode, hcheck, -⟩ := commandInFlight_iff.mp (h.inFlight hbusy)
    rw [sequencerTurn_busy hbusy hdecode, exec_busy hbusy]
    by_cases hpos : s.pos.toNat < (expand i s.nl s.ll).length
    · rw [sequencerStep_micro hpos]
      exact microStep_goesOn (namesExist_of_issueCheck hcheck (List.getElem_mem hpos))
    · rw [sequencerStep_retires (by omega)]
      exact goesOn_next _ _

theorem step_goesOn {s : State} (h : Inv s) : GoesOn s (step s) := by
  rcases step_cases s with ⟨-, hstep⟩ | ⟨-, hstep⟩ | ⟨-, hstep⟩ <;> rw [hstep]
  · exact hostTurn_goesOn (popSchedule s)
  · exact sequencerTurn_goesOn (s := popSchedule s) (inv_of_sameBlock rfl h)
  · exact goesOn_next _ _

/-- Settles O37: the sequencer's list names entries that exist, and nothing else could stop a step. -/
theorem stepNeverStops : Obligations.StepNeverStops := by
  intro s h
  rcases step_goesOn h with ⟨t, ht⟩ | ⟨hrefuse, ht⟩
  · simp [ht]
  · simp [ht, hrefuse]

/-! #### The latches -/

/-- A write of a control register leaves the latches alone and the block as busy as it was, but for the
acceptance of a command (R42, R218). -/
theorem csrWrite_latches {x : Fin 16} {v : Word32} {s t : State}
    (hfree : isHeld (.csrWrite x v) s = false) (ht : csrWrite x v s = .next t) :
    (t.busy = s.busy ∧ t.cmdw = s.cmdw ∧ t.nl = s.nl ∧ t.ll = s.ll) ∨
    (x = 8 ∧ s.busy = false ∧ t = accept v s) := by
  rcases csrWrite_eq_next ht with ⟨-, rfl⟩ | ⟨-, rfl⟩ | ⟨-, rfl⟩ | ⟨rfl, hissue⟩ | rfl
  · simp
  · simp
  · simp
  · have hidle := idle_of_cmdWrite_free hfree
    rcases issueWord_idle_eq_next hidle hissue with rfl | ⟨c, info, rfl⟩ | ⟨i, -, -, -, rfl⟩
    · simp
    · simp
    · exact .inr ⟨rfl, hidle, rfl⟩
  · simp

theorem latches_of_sameBlock {s t : State} (h : SameBlock s t) :
    t.busy = s.busy ∧ t.cmdw = s.cmdw ∧ t.nl = s.nl ∧ t.ll = s.ll := by
  rw [h]
  exact ⟨rfl, rfl, rfl, rfl⟩

/-- What a step does to the latches: a reset clears them, the host's write of `CMD` to an idle block may
accept a command into them, and every other step leaves them alone and sets `BUSY` of no block. -/
theorem step_latches {s t : State} (h : step s = .next t) :
    (mover s = .reset ∧ t.busy = false ∧ t.cmdw = 0 ∧ t.nl = 0 ∧ t.ll = 0) ∨
    (mover s ≠ .reset ∧ (t.busy = true → s.busy = true) ∧
      t.cmdw = s.cmdw ∧ t.nl = s.nl ∧ t.ll = s.ll) ∨
    (mover s ≠ .reset ∧ ∃ q rest w, HostTries s q rest ∧ requestTxn q = some (.csrWrite 8 w) ∧
      s.busy = false ∧ SameBlock (accept w s) t) := by
  rcases step_cases s with ⟨hmover, -⟩ | ⟨hmover, hstep⟩ | ⟨hmover, hstep⟩
  · have hreset : mover s ≠ .reset := by simp [hmover]
    rcases hostStep_cases hmover h with hsame | ⟨j, v, -, hsame⟩ |
      ⟨q, rest, x, v, u, htries, hq, hfree, hu, hsame⟩
    · exact .inr (.inl ⟨hreset, by simp [latches_of_sameBlock hsame]⟩)
    · exact .inr (.inl ⟨hreset, by simp [latches_of_sameBlock hsame]⟩)
    · rcases csrWrite_latches (s := pending rest s) hfree hu with hlatch | ⟨rfl, hidle, rfl⟩
      · obtain ⟨hbusy, hcmdw, hnl, hll⟩ := latches_of_sameBlock hsame
        exact .inr (.inl ⟨hreset, by simp [hbusy, hcmdw, hnl, hll, hlatch, pending]⟩)
      · have haccept : SameBlock (accept v s) (accept v (pending rest s)) := rfl
        exact .inr (.inr ⟨hreset, q, rest, v, htries, hq, hidle, haccept.trans hsame⟩)
  · have hreset : mover s ≠ .reset := by simp [hmover]
    rcases sequencerTurn_eq_next (hstep ▸ h) with ⟨hidle, rfl⟩ | ⟨hbusy, rfl⟩ |
      ⟨hbusy, i, u, -, -, -, rfl⟩
    · exact .inr (.inl ⟨hreset, by simp⟩)
    · exact .inr (.inl ⟨hreset, by simp⟩)
    · exact .inr (.inl ⟨hreset, by simp⟩)
  · cases hstep.symm.trans h
    exact .inl ⟨hmover, rfl, rfl, rfl, rfl⟩

/-- Settles O43, by what a step does to the latches. -/
theorem latchesChangeOnlyAtAcceptance : Obligations.LatchesChangeOnlyAtAcceptance := by
  intro s t h
  rcases step_latches h with ⟨hreset, hidle, hlatch⟩ | ⟨hreset, hbusy, hlatch⟩ |
    ⟨hreset, q, rest, w, htries, hq, hidle, hsame⟩
  · exact ⟨fun _ hbusy => by simp [hidle] at hbusy, fun _ => ⟨hidle, hlatch⟩,
      fun hnot => absurd hreset hnot⟩
  · refine ⟨fun hidle ht => ?_, fun hr => absurd hr hreset, fun _ _ => hlatch⟩
    simp [hbusy ht] at hidle
  · have hpos : t.pos = 0 := by rw [hsame]; rfl
    obtain ⟨hbusy, hcmdw, hnl, hll⟩ := latches_of_sameBlock hsame
    exact ⟨fun _ _ => ⟨q, rest, w, htries, hq, hcmdw, hnl, hll, hpos⟩,
      fun hr => absurd hr hreset, fun _ hnot => absurd ⟨hidle, hbusy⟩ hnot⟩

/-! #### The control registers as the host reads them -/

theorem ctrlWord_bits (s : State) :
    (csrValue 3 s).getLsbD 0 = s.ie ∧ (csrValue 3 s).extractLsb' 1 31 = 0 := by
  change (0#31 ++ BitVec.ofBool s.ie).getLsbD 0 = s.ie ∧
    (0#31 ++ BitVec.ofBool s.ie).extractLsb' 1 31 = 0
  cases s.ie <;> decide

theorem statusWord_bits (s : State) :
    (csrValue 2 s).getLsbD 0 = s.busy ∧ (csrValue 2 s).getLsbD 1 = s.done ∧
    (csrValue 2 s).getLsbD 2 = s.err ∧ (csrValue 2 s).getLsbD 3 = false ∧
    (csrValue 2 s).extractLsb' 4 4 = s.cause ∧ (csrValue 2 s).extractLsb' 8 24 = 0 := by
  have hstatus : csrValue 2 s = statusWord s := rfl
  rw [hstatus, statusWord]
  generalize s.cause = c
  cases s.busy <;> cases s.done <;> cases s.err <;> revert c <;> decide

/-- `CAP` has `LMAX`, which is at most 16, in its low five bits (R6, R32). -/
theorem capWord_bits (s : State) :
    (csrValue 1 s).extractLsb' 0 5 = BitVec.ofNat 5 s.params.lmax ∧
    (csrValue 1 s).extractLsb' 5 27 = 0 ∧
    s.params.nmax = 1 <<< ((csrValue 1 s).extractLsb' 0 5).toNat := by
  have hcap : csrValue 1 s = BitVec.ofNat 32 (s.params.lmaxLessOne.val + 1) := rfl
  rw [hcap, Config.Params.nmax, Config.Params.lmax]
  generalize s.params.lmaxLessOne = l
  revert l
  decide

/-! #### The host's transactions, step by step -/

/-- The step of a host whose transaction is held (R65). -/
theorem step_of_held {s : State} {q : Request} {x : HostTxn} {rest : List ScriptLine}
    (h : HostTries s q rest) (hq : requestTxn q = some x) (hheld : isHeld x s = true) :
    step s = .next (stillHeld s q rest) := by
  rw [step_of_hostTries h, attempt, hq]
  exact if_pos hheld

/-- The step of a host whose transaction is not held performs it. -/
theorem step_of_free {s : State} {q : Request} {x : HostTxn} {rest : List ScriptLine}
    (h : HostTries s q rest) (hq : requestTxn q = some x) (hfree : isHeld x s = false) :
    step s = completeTxn q x (pending rest s) := by
  rw [step_of_hostTries h]
  exact attempt_of_not_held rest hq hfree

/-- The step of a host whose access the bridge refuses (R72). -/
theorem step_of_refused {s : State} {q : Request} {rest : List ScriptLine}
    (h : HostTries s q rest) (hq : requestTxn q = none) :
    step s = .next (answered s rest .busError) := by
  rw [step_of_hostTries h, attempt, hq]
  rfl

/-- A completed register write answers `Ok`. -/
theorem step_of_csrWrite {s t : State} {x : Fin 16} {v : Word32} {rest : List ScriptLine}
    (h : HostTries s (.direct (.csrWrite x v)) rest) (hfree : isHeld (.csrWrite x v) s = false)
    (ht : csrWrite x v (pending rest s) = .next t) : step s = .next (respond .ok t) := by
  rw [step_of_free h rfl hfree, completeTxn, ht]
  rfl

/-- Only `N`, `LEN` and `CMD` are ever held (R64). -/
theorem isHeld_csrWrite_of_ne {x : Fin 16} (v : Word32) (s : State) (hn : x ≠ 4) (hlen : x ≠ 5)
    (hcmd : x ≠ 8) : isHeld (.csrWrite x v) s = false := by
  simp [isHeld, Fin.ext_iff] at *
  omega

theorem step_of_csrRead {s : State} {x : Fin 16} {rest : List ScriptLine}
    (h : HostTries s (.direct (.csrRead x)) rest) :
    step s = .next (answered s rest (.word32 (csrValue x s))) := by
  rw [step_of_free (x := .csrRead x) h rfl (by simp [isHeld])]
  rfl

theorem writeCtrl_respond (v : Word32) (r : Response) (s : State) :
    writeCtrl v (respond r s) = respond r (writeCtrl v s) := by
  cases hclr : v.getLsbD 1 with
  | true => rw [writeCtrl_of_clr _ hclr, writeCtrl_of_clr _ hclr]; rfl
  | false => rw [writeCtrl_of_noClr _ hclr, writeCtrl_of_noClr _ hclr]; rfl

theorem step_of_ctrlWrite {s : State} {v : Word32} {rest : List ScriptLine}
    (h : HostTries s (.direct (.csrWrite 3 v)) rest) :
    step s = .next (writeCtrl v (answered s rest .ok)) := by
  have hfree := isHeld_csrWrite_of_ne (x := 3) v s (by decide) (by decide) (by decide)
  rw [step_of_csrWrite h hfree rfl, ← writeCtrl_respond]
  rfl

/-- A register that no rule names discards what is written to it (R41, R64). -/
theorem csrWrite_discards {x : Fin 16} (v : Word32) (s : State)
    (hx : x ∈ [0, 1, 2, 6, 7, 9, 10, 11, 12, 13, 14, 15]) : csrWrite x v s = .next s := by
  fin_cases hx <;> rfl

/-- A register write leaves the host's record of responses to its caller. -/
theorem csrWrite_responses {x : Fin 16} {v : Word32} {s t : State}
    (hfree : isHeld (.csrWrite x v) s = false) (ht : csrWrite x v s = .next t) :
    t.responses = s.responses := by
  rcases csrWrite_eq_next ht with ⟨-, rfl⟩ | ⟨-, rfl⟩ | ⟨-, rfl⟩ | ⟨rfl, hissue⟩ | rfl
  · simp
  · rfl
  · rfl
  · rcases issueWord_idle_eq_next (idle_of_cmdWrite_free hfree) hissue with rfl | ⟨c, info, rfl⟩ |
      ⟨i, -, -, -, rfl⟩ <;> rfl
  · rfl

/-- Settles O24: a read of a register is never held, and answers the register. -/
theorem controlRegisterReads : Obligations.ControlRegisterReads := by
  refine ⟨fun s rest x h => step_of_csrRead h, fun s => ⟨rfl, rfl, rfl, rfl, rfl, rfl, ?_⟩,
    capWord_bits, statusWord_bits, ctrlWord_bits⟩
  intro x hx
  fin_cases x <;> simp at hx <;> rfl

/-- Settles O25, register by register. -/
theorem controlRegisterWrites : Obligations.ControlRegisterWrites := by
  intro s rest x v h
  refine ⟨?_, ?_, ?_, ?_, ?_, ?_⟩
  · rintro rfl hidle
    exact step_of_csrWrite h (isHeld_of_idle hidle _) rfl
  · rintro rfl hidle
    exact step_of_csrWrite h (isHeld_of_idle hidle _) rfl
  · rintro hx hbusy
    refine step_of_held h rfl ?_
    rcases hx with rfl | rfl | rfl <;> simp [isHeld, hbusy]
  · intro hx
    have hfree : isHeld (.csrWrite x v) s = false := by
      refine isHeld_csrWrite_of_ne v s ?_ ?_ ?_ <;> rintro rfl <;> simp at hx
    exact step_of_csrWrite h hfree (csrWrite_discards v _ hx)
  · rintro rfl
    exact step_of_ctrlWrite h
  · rintro rfl hidle
    obtain ⟨t, ht⟩ := issueWord_idle_goesOn v (s := pending rest s) hidle
    have hfree := isHeld_of_idle hidle (.csrWrite 8 v)
    have hresp : t.responses = s.responses := csrWrite_responses (s := pending rest s) hfree ht
    refine ⟨t, ht, ?_⟩
    rw [step_of_csrWrite h hfree ht, respond, hresp]

/-- Settles O26: the two equations of a write of `CTRL`, and what they make of `irq`. -/
theorem controlBitsAndInterrupt : Obligations.ControlBitsAndInterrupt := by
  refine ⟨fun v s => writeCtrl_of_clr s, fun v s => writeCtrl_of_noClr s, ctrlWord_bits,
    fun s => rfl, fun s hdone => ?_, fun s => ?_, fun s rest v => step_of_ctrlWrite⟩
  · rw [writeCtrl_of_noClr (v := 1) s (by decide), writeCtrl_of_noClr (v := 0) s (by decide)]
    simp [irq, hdone]
  · rw [writeCtrl_of_clr (v := 3) s (by decide)]
    simp [irq]

/-- What the control registers of a reset block read as (R47). -/
theorem csrValue_resetBlock (s : State) :
    csrValue 2 (resetBlock s) = 0 ∧ csrValue 3 (resetBlock s) = 0 := by
  change statusWord State.reset = 0 ∧ ctrlWord State.reset = 0
  decide

theorem cregs_resetBlock (s : State) (r : Reg) : (resetBlock s).cregs[r].written = false := by
  revert r
  change ∀ r : Reg, State.reset.cregs[r].written = false
  decide

/-- Settles O23: the reset state too is what a reset leaves of some state. -/
theorem resetLeaves : Obligations.ResetLeaves := by
  intro t ht
  obtain ⟨s, rfl⟩ : ∃ s, t = resetBlock s := by
    rcases ht with rfl | ⟨s, hmover, ht⟩
    · exact ⟨State.reset, rfl⟩
    · cases (step_of_reset hmover).symm.trans ht
      exact ⟨_, rfl⟩
  obtain ⟨hstatus, hctrl⟩ := csrValue_resetBlock s
  exact ⟨rfl, rfl, hstatus, hctrl, rfl, rfl, rfl, rfl, rfl, rfl, rfl, rfl, rfl, rfl, rfl, rfl, rfl,
    cregs_resetBlock s, fun j => rfl⟩

/-! #### Reads of words that nothing has written -/

theorem readReg_of_unwritten {r : Reg} {s : State} (h : s.cregs[r].written = false) :
    readReg r s = (⟨Config.freeWord s.draws, Config.freeWord (s.draws + 1)⟩,
      { s with draws := s.draws + 2 }) := by
  rw [readReg, h]
  rfl

theorem wordWritten_iff {j : Nat} {s : State} :
    wordWritten j s = true ↔ ∃ v, s.mem.lookup j = some v := Option.isSome_iff_exists

theorem entryWritten_iff {e : Nat} {s : State} : entryWritten e s = true ↔ EntryWritten s e := by
  rw [entryWritten, Bool.and_eq_true, wordWritten_iff, wordWritten_iff]
  constructor
  · rintro ⟨⟨v, hv⟩, w, hw⟩
    exact ⟨⟨v, w⟩, hv, hw⟩
  · rintro ⟨x, hre, him⟩
    exact ⟨⟨x.re, hre⟩, x.im, him⟩

/-- A micro-op reads written words only: of every register and every entry it reads. -/
theorem readsWritten_iff {u : UOp} {s : State} : readsWritten u s = true ↔
    (∀ r ∈ regsRead u, s.cregs[r].written = true) ∧ (∀ e ∈ entriesRead u, EntryWritten s e) := by
  simp only [readsWritten, Bool.and_eq_true, List.all_eq_true, entryWritten_iff, regWritten]

theorem mayRead_of_anyValue (u : UOp) {s : State} (h : s.params.unwritten = .anyValue) :
    mayRead u s = true := by
  rw [mayRead, h]

theorem mayRead_of_refuse (u : UOp) {s : State} (h : s.params.unwritten = .refuse) :
    mayRead u s = readsWritten u s := by
  rw [mayRead, h]

/-- The step of a busy block whose list has a micro-op at `pos` is that micro-op (R27). -/
theorem exec_microOp {i : Instr} {u : UOp} {s : State} (hbusy : s.busy = true)
    (hu : (expand i s.nl s.ll)[s.pos.toNat]? = some u) : exec i s = microStep u s := by
  rw [exec_busy hbusy, sequencerStep, hu]

theorem microStep_refused {u : UOp} {s : State} (hn : namesExist u s = true)
    (hm : mayRead u s = false) : microStep u s = .refused .unwrittenRead := by
  simp [microStep, hn, hm]

/-- Settles O38: the reads by cases on what has been written, and the micro-op by what it may read. -/
theorem readsOfUnwrittenWords : Obligations.ReadsOfUnwrittenWords := by
  refine ⟨fun s j h => readWord_of_none h, fun s j v h => readWord_of_some h,
    fun s r h => readReg_of_unwritten h, fun s r h => readReg_of_written h, ?_⟩
  intro i s u hbusy hu hcheck hrefuse
  have hn := namesExist_of_issueCheck hcheck (List.mem_of_getElem? hu)
  have hmay := mayRead_of_refuse u hrefuse
  rw [exec_microOp hbusy hu]
  refine ⟨fun hunwritten => microStep_refused hn ?_,
    fun hregs hentries => microStep_next hn (hmay.trans (readsWritten_iff.mpr ⟨hregs, hentries⟩))⟩
  rw [hmay, ← Bool.not_eq_true, readsWritten_iff]
  rintro ⟨hregs, hentries⟩
  rcases hunwritten with ⟨r, hr, hfalse⟩ | ⟨e, he, hnot⟩
  · exact Bool.false_ne_true (hfalse.symm.trans (hregs r hr))
  · exact hnot (hentries e he)

/-! #### The remaining commands of one micro-op, whole -/

theorem exec_issues {i : Instr} {s : State} (hs : Idle s)
    (hcheck : issueCheck s.params i s.n s.len = none) : exec i s = .next (inFlight (encode i) 0 s) :=
  have ⟨hidle, hfree⟩ := hs
  exec_accepts hidle hfree hcheck

theorem writeReg_readReg (d a : Reg) (v : Cplx) (s : State) :
    writeReg d v (readReg a s).2 =
      { s with cregs := s.cregs.set d ⟨true, v⟩, draws := (readReg a s).2.draws } :=
  congrArg (writeReg d v) (readReg_frame a s)

theorem writeReg_readEntry (d : Reg) (e : Nat) (v : Cplx) (s : State) :
    writeReg d v (readEntry e s).2 =
      { s with cregs := s.cregs.set d ⟨true, v⟩, draws := (readEntry e s).2.draws } :=
  congrArg (writeReg d v) (readEntry_frame e s)

theorem writeEntry_readReg (e : Nat) (r : Reg) (v : Cplx) (s : State) :
    writeEntry e v (readReg r s).2 =
      { s with mem := (writeEntry e v s).mem, draws := (readReg r s).2.draws } :=
  congrArg (writeEntry e v) (readReg_frame r s)

/-- Settles O47: each command is one micro-op, which reads its source before it writes. -/
theorem conjugateAndPolarRun : Obligations.ConjugateAndPolarRun := by
  intro d a s hs hr
  exact
    ⟨⟨_, _, _, regReads_readReg rfl a, writeReg_readReg d a _ s,
      exec_registerMicroOp (u := .cconj d a) hs rfl rfl nofun rfl hr⟩,
    ⟨_, _, _, regReads_readReg rfl a, writeReg_readReg d a _ s,
      exec_registerMicroOp (u := .cpolar d a) hs rfl rfl nofun rfl hr⟩⟩

theorem checkTwid_of_inRange {lmax st k : Nat} (hst : 1 ≤ st) (hlmax : st ≤ lmax)
    (hk : k < 2 ^ (st - 1)) (d : Reg) : checkTwid lmax d st k = none := by
  simp [checkTwid, operandCheck, twiddleInRange, stageInRange, hst, hlmax, hk]

theorem regsReadable_nil (s : State) : RegsReadable s [] := .inr nofun

/-- Settles O48: the check passes in the legal domain, and the one micro-op reads nothing. -/
theorem twiddleCommandRuns : Obligations.TwiddleCommandRuns := by
  intro d st k s hs hst hlmax hk
  exact exec_registerMicroOp (u := .twid d st k) hs (checkTwid_of_inRange hst hlmax hk d) rfl nofun
    rfl (regsReadable_nil s)

/-- Settles O45: the micro-op of `NOP` does nothing. -/
theorem nopRuns : Obligations.NopRuns := by
  intro s hs
  have hword : encode .nop = 0x04000000 := by decide
  exact hword ▸ exec_registerMicroOp (u := .nop) hs rfl rfl nofun rfl (regsReadable_nil s)

/-- Settles O51: `uSETN` writes `N` after issue has latched it, so the latches keep the old one. -/
theorem nextPowerCommandRuns : Obligations.NextPowerCommandRuns := by
  intro s hs
  have hword : encode .npow2 = 0xA0000000 := by decide
  refine ⟨hword ▸ exec_issues hs rfl, ?_, ?_⟩
  · have hmay := mayRead_of_regsReadable (u := .setn (npow2 s.len)) rfl
      (regsReadable_nil (inFlight 0xA0000000 0 s))
    exact (exec_microOp rfl rfl).trans (microStep_next rfl hmay)
  · rw [exec_busy rfl, sequencerStep_retires (le_refl 1)]
    rfl

/-- A micro-op that reads no register may be performed when its entries may be read. -/
theorem mayRead_of_entriesReadable {u : UOp} {s : State} (hx : regsRead u = [])
    (hr : EntriesReadable s (entriesRead u)) : mayRead u s = true := by
  rcases hr with hany | hall
  · exact mayRead_of_anyValue u hany
  · cases hp : s.params.unwritten with
    | anyValue => exact mayRead_of_anyValue u hp
    | refuse =>
      rw [mayRead_of_refuse u hp]
      exact readsWritten_iff.mpr ⟨by simp [hx], hall⟩

/-- What an entry read answers is an answer. -/
theorem entryReads_readEntry (e : Nat) (s : State) : EntryReads s e (readEntry e s).1 :=
  ⟨fun _ h => readEntry_re h, fun _ h => readEntry_im h⟩

theorem entryIs_writeEntry (e : Nat) (v : Cplx) (s : State) : EntryIs (writeEntry e v s) e v := by
  constructor
  · rw [writeEntry_mem, lookup_write_other _ _ (by omega), lookup_write_same]
  · rw [writeEntry_mem, lookup_write_same]

theorem operandCheck_of_lt {idx nmax : Nat} (h : idx < nmax) (info : Word32) :
    operandCheck (decide (idx < nmax)) info = none := by
  simp [operandCheck, h]

/-- Settles O50: the entry exists, so each command is one micro-op that copies the pair. -/
theorem loadAndStoreRun : Obligations.LoadAndStoreRun := by
  refine ⟨?_, ?_⟩
  · intro d idx s hs hidx hr
    have hn : namesExist (.ld d idx) s = true := by simpa [namesExist, entriesNamed] using hidx
    exact ⟨_, _, _, entryReads_readEntry idx s, writeReg_readEntry d idx _ s,
      exec_oneMicroOp (u := .ld d idx) hs (operandCheck_of_lt hidx _) rfl nofun hn
        (mayRead_of_entriesReadable rfl hr)⟩
  · intro d idx s hs hidx hr
    have hn : namesExist (.st d idx) s = true := by simpa [namesExist, entriesNamed] using hidx
    exact ⟨_, _, _, _, regReads_readReg rfl d, writeEntry_readReg idx d _ s,
      entryIs_writeEntry idx _ _, fun j hre him => lookup_writeEntry_other _ s hre him,
      exec_oneMicroOp (u := .st d idx) hs (operandCheck_of_lt hidx _) rfl nofun hn
        (mayRead_of_regsReadable rfl hr)⟩

/-! #### The length of a micro-op list

The longest list is that of `IFFT` on `2^16` entries; all that matters is that `pos` can count it. -/

theorem nmax_le (p : Config.Params) : p.nmax ≤ 2 ^ 16 :=
  Nat.pow_le_pow_right (by decide) (by have := p.lmaxLessOne.isLt; unfold Config.Params.lmax; omega)

theorem length_reorder_le (n : Nat) : (reorder n).length ≤ n :=
  (List.length_filterMap_le _ _).trans_eq List.length_range

theorem length_stage (st n : Nat) : (stage st n).length = n / 2 := by simp [stage]

theorem length_stages (n : Nat) : (stages n).length = log2 n * (n / 2) := by
  simp [stages, length_stage]

theorem length_stages_le {n : Nat} (h : n ≤ 2 ^ 16) : (stages n).length ≤ 16 * 2 ^ 15 := by
  have hlog : log2 n ≤ 16 := by
    rcases Nat.eq_zero_or_pos n with rfl | hpos
    · decide
    · exact Nat.lt_succ_iff.mp ((Nat.log2_lt hpos.ne').mpr (by omega))
  rw [length_stages]
  exact Nat.mul_le_mul hlog (by omega)

theorem length_expandFft_le {nl : Word32} (h : nl.toNat ≤ 2 ^ 16) :
    (expandFft nl).length ≤ 2 ^ 16 + 16 * 2 ^ 15 := by
  rw [expandFft, List.length_append]
  exact Nat.add_le_add ((length_reorder_le _).trans h) (length_stages_le h)

theorem length_expandIfft_le {nl : Word32} (h : nl.toNat ≤ 2 ^ 16) :
    (expandIfft nl).length ≤ 2 ^ 16 + (2 ^ 16 + 16 * 2 ^ 15) + 2 ^ 16 := by
  have hfft := length_expandFft_le h
  have hsplit : (expandIfft nl).length = nl.toNat + (expandFft nl).length + nl.toNat := by
    simp [expandIfft, expandFft, conjList, postList, Nat.add_assoc]
  omega

/-- The list of a command whose checks passed is short enough for `pos` to count it. -/
theorem length_expand_lt {p : Config.Params} {i : Instr} {nl ll : Word32}
    (hc : issueCheck p i nl ll = none) : (expand i nl ll).length < 2 ^ 32 := by
  have hmax := nmax_le p
  cases i with
  | bitrev =>
    have hcap := (transformCheck_eq_none hc).2
    have hlen : (expand .bitrev nl ll).length ≤ nl.toNat := length_reorder_le _
    omega
  | bstage st =>
    have hlen : (expand (.bstage st) nl ll).length = nl.toNat / 2 := length_stage _ _
    omega
  | fft =>
    have hlen := length_expandFft_le ((transformCheck_eq_none hc).2.trans hmax)
    exact hlen.trans_lt (by decide)
  | ifft =>
    have hlen := length_expandIfft_le ((transformCheck_eq_none hc).2.trans hmax)
    exact hlen.trans_lt (by decide)
  | conjv => simpa [expand, expandConjv, conjList] using nl.isLt
  | ipost => simpa [expand, expandIpost, postList] using nl.isLt
  | zpad =>
    have := nl.isLt
    simp only [expand, expandZpad, List.length_map, List.length_range]
    omega
  | lift => simpa [expand, expandLift] using nl.isLt
  | _ => exact (by decide : 1 < 2 ^ 32)

/-! #### The life of a command -/

theorem execTimes_succ {i : Instr} {k : Nat} {s t : State} (h : execTimes i k s = .next t) :
    execTimes i (k + 1) s = exec i t := by
  induction k generalizing s with
  | zero =>
    cases h
    rw [execTimes]
    cases exec i t <;> rfl
  | succ k ih =>
    rw [execTimes] at h ⊢
    cases hexec : exec i s with
    | next u =>
      rw [hexec] at h
      exact ih h
    | fault f => rw [hexec] at h; cases h
    | refused f => rw [hexec] at h; cases h

/-- `t` is a state of a command issued in `s`, `m` of whose micro-ops have been performed: the block is
busy, the latches hold the lengths of `s`, and `pos` counts the micro-ops (R27, R42). -/
structure Running (s : State) (m : Nat) (t : State) : Prop where
  params : t.params = s.params
  busy : t.busy = true
  done : t.done = false
  nl : t.nl = s.n
  ll : t.ll = s.len
  pos : t.pos.toNat = m

theorem running_inFlight (w : Word32) (s : State) : Running s 0 (inFlight w 0 s) :=
  ⟨rfl, rfl, rfl, rfl, rfl, rfl⟩

theorem running_advance {s t : State} {m : Nat} (u : UOp) (h : Running s m t) (hm : m + 1 < 2 ^ 32) :
    Running s (m + 1) (advance (perform u t)) where
  params := by simpa using h.params
  busy := by simpa using h.busy
  done := by simpa using h.done
  nl := by simpa using h.nl
  ll := by simpa using h.ll
  pos := by
    simp only [advance_pos, perform_pos, BitVec.toNat_add, h.pos]
    exact Nat.mod_eq_of_lt hm

section Life

variable {i : Instr} {s : State} (hany : s.params.unwritten = .anyValue)
  (hcheck : issueCheck s.params i s.n s.len = none)
include hany hcheck

/-- A running command performs the micro-op that `pos` counts to. -/
theorem exec_running {t : State} {m : Nat} (h : Running s m t)
    (hm : m < (expand i s.n s.len).length) :
    exec i t = .next (advance (perform (expand i s.n s.len)[m] t)) := by
  have hu : (expand i t.nl t.ll)[t.pos.toNat]? = some (expand i s.n s.len)[m] := by
    rw [h.nl, h.ll, h.pos]
    exact List.getElem?_eq_getElem hm
  rw [exec_microOp h.busy hu]
  refine microStep_next ?_ (mayRead_of_anyValue _ (h.params ▸ hany))
  exact namesExist_of_issueCheck (h.params ▸ hcheck) (List.getElem_mem hm)

/-- After its issue and `m` micro-ops a command is running at the next. -/
theorem execTimes_running (hs : Idle s) {m : Nat} (hm : m ≤ (expand i s.n s.len).length) :
    ∃ t, execTimes i (m + 1) s = .next t ∧ Running s m t := by
  induction m with
  | zero =>
    have hissue : execTimes i 1 s = exec i s := execTimes_succ rfl
    exact ⟨_, hissue.trans (exec_issues hs hcheck), running_inFlight (encode i) s⟩
  | succ m ih =>
    obtain ⟨t, ht, hrun⟩ := ih (by omega)
    have hlength := length_expand_lt hcheck
    exact ⟨_, (execTimes_succ ht).trans (exec_running hany hcheck hrun (by omega)),
      running_advance _ hrun (by omega)⟩

end Life

/-- A running command whose micro-ops are all performed retires. -/
theorem exec_running_retires {i : Instr} {s t : State} (h : Running s (expand i s.n s.len).length t) :
    exec i t = .next (retire t) := by
  rw [exec_busy h.busy, h.nl, h.ll, sequencerStep_retires h.pos.ge]

/-- Settles O39, by induction on the number of micro-ops performed. -/
theorem commandsRetire : Obligations.CommandsRetire := by
  refine ⟨fun s => sequencerTurn_idle, fun i s hs hany hcheck => ?_⟩
  refine ⟨exec_issues hs hcheck, ?_⟩
  rintro k rfl
  refine ⟨fun m hm => ?_, ?_⟩
  · obtain ⟨t, ht, hrun⟩ := execTimes_running hany hcheck hs hm.le
    exact ⟨t, ht, hrun.busy, hrun.done, hrun.pos, exec_running hany hcheck hrun hm⟩
  · obtain ⟨t, ht, hrun⟩ := execTimes_running hany hcheck hs le_rfl
    have hretire := exec_running_retires hrun
    exact ⟨t, ht, hrun.busy, hrun.done, hrun.pos, hretire, (execTimes_succ ht).trans hretire⟩

/-! #### Commands that name no register

Replacing the register file commutes with everything such a command does. -/

/-- The state with another register file. -/
def setRegs (c : Vector CReg 8) (s : State) : State := { s with cregs := c }

/-- The micro-op neither reads nor writes a register. -/
def NoRegister (u : UOp) : Prop := regsRead u = [] ∧ writesReg u = false

theorem readWord_setRegs (j : Nat) (c : Vector CReg 8) (s : State) :
    readWord j (setRegs c s) = ((readWord j s).1, setRegs c (readWord j s).2) := by
  have hmem : (setRegs c s).mem = s.mem := rfl
  unfold readWord
  rw [hmem]
  split <;> rfl

theorem readEntry_setRegs (e : Nat) (c : Vector CReg 8) (s : State) :
    readEntry e (setRegs c s) = ((readEntry e s).1, setRegs c (readEntry e s).2) := by
  simp only [readEntry, readWord_setRegs]

theorem writeEntry_setRegs (e : Nat) (v : Cplx) (c : Vector CReg 8) (s : State) :
    writeEntry e v (setRegs c s) = setRegs c (writeEntry e v s) := rfl

theorem perform_setRegs {u : UOp} (hu : NoRegister u) (c : Vector CReg 8) (s : State) :
    perform u (setRegs c s) = setRegs c (perform u s) := by
  obtain ⟨hreads, hwrites⟩ := hu
  cases u with
  | nop => rfl
  | zero e => rfl
  | lift e => rfl
  | setn v => rfl
  | swap e f =>
    simp only [perform, microSwap]
    rw [readEntry_setRegs e, readEntry_setRegs f, writeEntry_setRegs, writeEntry_setRegs]
  | bflym e f st k =>
    simp only [perform, microBflym]
    rw [readEntry_setRegs e, readEntry_setRegs f, writeEntry_setRegs, writeEntry_setRegs]
  | conjm e => simp only [perform, microConjm, readEntry_setRegs, writeEntry_setRegs]
  | postm e p => simp only [perform, microPostm, readEntry_setRegs, writeEntry_setRegs]
  | st r e => cases hreads
  | _ => cases hwrites

theorem mayRead_setRegs {u : UOp} (hu : NoRegister u) (c : Vector CReg 8) (s : State) :
    mayRead u (setRegs c s) = mayRead u s := by
  have hreads : readsWritten u (setRegs c s) = readsWritten u s := by
    rw [readsWritten, readsWritten, hu.1]
    rfl
  have hparams : (setRegs c s).params = s.params := rfl
  rw [mayRead, hparams, hreads]
  rfl

theorem microStep_setRegs {u : UOp} (hu : NoRegister u) (c : Vector CReg 8) (s : State) :
    microStep u (setRegs c s) = withRegs c (microStep u s) := by
  have hn : namesExist u (setRegs c s) = namesExist u s := rfl
  unfold microStep
  rw [hn, mayRead_setRegs hu, perform_setRegs hu]
  split
  · rfl
  · split <;> rfl

theorem sequencerStep_setRegs {uops : List UOp} (hu : ∀ u ∈ uops, NoRegister u) (c : Vector CReg 8)
    (s : State) : sequencerStep uops (setRegs c s) = withRegs c (sequencerStep uops s) := by
  by_cases hpos : s.pos.toNat < uops.length
  · rw [sequencerStep_micro hpos, sequencerStep_micro (s := setRegs c s) hpos]
    exact microStep_setRegs (hu _ (List.getElem_mem hpos)) c s
  · have hend : uops.length ≤ s.pos.toNat := by omega
    rw [sequencerStep_retires hend, sequencerStep_retires (s := setRegs c s) hend]
    rfl

theorem issue_setRegs (w : Word32) (f : Option FaultRecord) (c : Vector CReg 8) (s : State) :
    issue w f (setRegs c s) = setRegs c (issue w f s) := by
  have herr : (setRegs c s).err = s.err := rfl
  unfold issue
  rw [herr]
  split
  · rfl
  · split <;> rfl

theorem noRegister_of_map {α : Type} {f : α → UOp} {xs : List α} (hf : ∀ x, NoRegister (f x)) :
    ∀ u ∈ xs.map f, NoRegister u := by
  intro u hu
  obtain ⟨x, -, rfl⟩ := List.mem_map.mp hu
  exact hf x

theorem noRegister_of_append {xs ys : List UOp} (hx : ∀ u ∈ xs, NoRegister u)
    (hy : ∀ u ∈ ys, NoRegister u) : ∀ u ∈ xs ++ ys, NoRegister u :=
  fun u hu => (List.mem_append.mp hu).elim (hx u) (hy u)

theorem reorder_noRegister (n : Nat) : ∀ u ∈ reorder n, NoRegister u := by
  intro u hu
  obtain ⟨j, -, hswap⟩ := List.mem_filterMap.mp hu
  split at hswap
  · cases hswap
    exact ⟨rfl, rfl⟩
  · cases hswap

theorem stage_noRegister (st n : Nat) : ∀ u ∈ stage st n, NoRegister u :=
  noRegister_of_map fun _ => ⟨rfl, rfl⟩

theorem expandFft_noRegister (nl : Word32) : ∀ u ∈ expandFft nl, NoRegister u := by
  refine noRegister_of_append (reorder_noRegister _) fun u hu => ?_
  obtain ⟨j, -, hstage⟩ := List.mem_flatMap.mp hu
  exact stage_noRegister _ _ u hstage

/-- The list of a command that names no register names none (R23). -/
theorem expand_noRegister {i : Instr} (hi : NamesNoRegister i) (nl ll : Word32) :
    ∀ u ∈ expand i nl ll, NoRegister u := by
  rcases hi with rfl | ⟨st, rfl⟩ | rfl | rfl | rfl | rfl | rfl | rfl | rfl | rfl
  · exact reorder_noRegister _
  · exact stage_noRegister st _
  · exact expandFft_noRegister nl
  · exact noRegister_of_map fun _ => ⟨rfl, rfl⟩
  · exact noRegister_of_map fun _ => ⟨rfl, rfl⟩
  · exact noRegister_of_append
      (noRegister_of_append (noRegister_of_map fun _ => ⟨rfl, rfl⟩) (expandFft_noRegister nl))
      (noRegister_of_map fun _ => ⟨rfl, rfl⟩)
  · exact noRegister_of_map fun _ => ⟨rfl, rfl⟩
  · exact noRegister_of_map fun _ => ⟨rfl, rfl⟩
  · exact List.forall_mem_singleton.mpr ⟨rfl, rfl⟩
  · exact List.forall_mem_singleton.mpr ⟨rfl, rfl⟩

/-- Settles O41: issue and each micro-op of the list commute with the replacement. -/
theorem vectorCommandsIgnoreRegisters : Obligations.VectorCommandsIgnoreRegisters := by
  intro i s c hi
  change exec i (setRegs c s) = withRegs c (exec i s)
  cases hbusy : s.busy with
  | false =>
    rw [exec_idle hbusy, exec_idle (s := setRegs c s) hbusy, issue_setRegs]
    rfl
  | true =>
    rw [exec_busy hbusy, exec_busy (s := setRegs c s) hbusy]
    exact sequencerStep_setRegs (expand_noRegister hi s.nl s.ll) c s

/-! #### The byte-addressed bridge: bytes and words -/

theorem bytesToNat_lt (bs : List (BitVec 8)) : bytesToNat bs < 2 ^ (8 * bs.length) := by
  induction bs with
  | nil => decide
  | cons b bs ih =>
    have hb := b.isLt
    rw [bytesToNat, List.length_cons, Nat.mul_add_one, pow_add]
    omega

theorem byte_of_bytesToNat {bs : List (BitVec 8)} {k : Nat} (h : k < bs.length) :
    bytesToNat bs / 2 ^ (8 * k) % 2 ^ 8 = bs[k].toNat := by
  induction bs generalizing k with
  | nil => cases h
  | cons b bs ih =>
    have hb := b.isLt
    rw [bytesToNat]
    cases k with
    | zero => simp only [List.getElem_cons_zero]; omega
    | succ k =>
      have hrest : (b.toNat + 2 ^ 8 * bytesToNat bs) / 2 ^ 8 = bytesToNat bs := by omega
      rw [Nat.mul_add_one, Nat.add_comm (8 * k), pow_add, ← Nat.div_div_eq_div_mul, hrest]
      exact ih (by simpa using h)

theorem extractLsb'_byte {n : Nat} (v : BitVec n) (k : Nat) :
    v.extractLsb' (8 * k) 8 = BitVec.ofNat 8 (v.toNat / 2 ^ (8 * k)) :=
  BitVec.eq_of_toNat_eq (by simp [Nat.shiftRight_eq_div_pow])

/-- Byte `k` of the word a bus write carries is bits `8k+7:8k` of it (R71). -/
theorem extractLsb'_bytesToNat {n : Nat} {bs : List (BitVec 8)} (hn : n = 8 * bs.length) (k : Nat)
    (h : k < bs.length) : (BitVec.ofNat n (bytesToNat bs)).extractLsb' (8 * k) 8 = bs[k] := by
  have hfits : bytesToNat bs % 2 ^ n = bytesToNat bs := Nat.mod_eq_of_lt (hn ▸ bytesToNat_lt bs)
  refine BitVec.eq_of_toNat_eq ?_
  rw [extractLsb'_byte, BitVec.toNat_ofNat, BitVec.toNat_ofNat, hfits, byte_of_bytesToNat h]

theorem length_natToBytes (n v : Nat) : (natToBytes n v).length = n := by
  induction n generalizing v with
  | zero => rfl
  | succ n ih => rw [natToBytes, List.length_cons, ih]

theorem getElem_natToBytes {n v k : Nat} (h : k < (natToBytes n v).length) :
    (natToBytes n v)[k] = BitVec.ofNat 8 (v / 2 ^ (8 * k)) := by
  induction n generalizing v k with
  | zero => cases h
  | succ n ih =>
    cases k with
    | zero => simp [natToBytes]
    | succ k =>
      have hshift : v / 2 ^ (8 * (k + 1)) = v / 2 ^ 8 / 2 ^ (8 * k) := by
        rw [Nat.div_div_eq_div_mul, ← pow_add, Nat.mul_add_one, Nat.add_comm 8]
      rw [hshift]
      exact ih (by simpa [natToBytes] using h)

/-- Byte `k` of the word a bus read answers is bits `8k+7:8k` of it (R71). -/
theorem getElem_natToBytes_toNat {w n : Nat} (v : BitVec w) (k : Nat)
    (h : k < (natToBytes n v.toNat).length) :
    (natToBytes n v.toNat)[k] = v.extractLsb' (8 * k) 8 := by
  rw [getElem_natToBytes, extractLsb'_byte]

/-! #### The byte-addressed bridge: the accesses it accepts -/

theorem wordAtOffset_mul (j : Nat) : wordAtOffset (8 * j) 8 = some j := by
  simp [wordAtOffset]

theorem csrAtOffset_mul (x : Fin 16) : csrAtOffset (4 * x.val) 4 = some x := by
  simp [csrAtOffset]

theorem wordAtOffset_eq_none {o w : Nat} (h : ¬(w = 8 ∧ o % 8 = 0)) : wordAtOffset o w = none :=
  if_neg h

theorem csrAtOffset_eq_none {o w : Nat} (h : ¬(w = 4 ∧ o % 4 = 0 ∧ o < 64)) :
    csrAtOffset o w = none :=
  if_neg (by omega)

theorem deliver_ok (q : Request) : deliver q .ok = .ok := by cases q <;> rfl

theorem deliver_busError (q : Request) : deliver q .busError = .busError := by cases q <;> rfl

/-! #### The byte-addressed bridge: one direct transaction -/

/-- A read of a word that something has written answers it. -/
theorem completeTxn_memRead_of_some {q : Request} {j : Nat} {v : F64} {s : State}
    (hj : j < s.wordCount) (h : s.mem.lookup j = some v) :
    completeTxn q (.memRead j) s = .next (respond (deliver q (.word64 v)) s) := by
  rw [completeTxn, if_pos hj, if_neg (by simp [h]), readWord_of_some h]

/-- A read of a word that nothing has written answers a draw, where the part lets it (R57). -/
theorem completeTxn_memRead_of_none {q : Request} {j : Nat} {s : State} (hj : j < s.wordCount)
    (h : s.mem.lookup j = none) (hany : s.params.unwritten = .anyValue) :
    completeTxn q (.memRead j) s =
      .next (respond (deliver q (.word64 (Config.freeWord s.draws))) (draw s).2) := by
  rw [completeTxn, if_pos hj, if_neg (by simp [hany]), readWord_of_none h]
  rfl

theorem completeTxn_memRead_refused {q : Request} {j : Nat} {s : State} (hj : j < s.wordCount)
    (h : s.mem.lookup j = none) (hrefuse : s.params.unwritten = .refuse) :
    completeTxn q (.memRead j) s = .refused .unwrittenRead := by
  rw [completeTxn, if_pos hj, if_pos ⟨hrefuse, h⟩]

/-- What a transaction does and answers is the same for whatever request it is performed. -/
theorem completeTxn_answers {x : HostTxn} {s : State} (hfree : isHeld x s = false)
    (hwritten : ∀ j, x = .memRead j → j < s.wordCount → s.mem.lookup j ≠ none) :
    ∃ r u, u.responses = s.responses ∧ ∀ q, completeTxn q x s = .next (respond (deliver q r) u) := by
  cases x with
  | csrRead y => exact ⟨_, s, rfl, fun q => rfl⟩
  | csrWrite y v =>
    obtain ⟨u, hu⟩ := csrWrite_goesOn hfree
    exact ⟨.ok, u, csrWrite_responses hfree hu, fun q => by rw [completeTxn, hu]; rfl⟩
  | memRead j =>
    by_cases hj : j < s.wordCount
    · obtain ⟨v, hv⟩ := Option.ne_none_iff_exists'.mp (hwritten j rfl hj)
      exact ⟨.word64 v, s, rfl, fun q => completeTxn_memRead_of_some hj hv⟩
    · exact ⟨.busError, s, rfl, fun q => by rw [completeTxn, if_neg hj, deliver_busError]⟩
  | memWrite j v =>
    by_cases hj : j < s.wordCount
    · exact ⟨.ok, writeWord j v s, rfl, fun q => by rw [completeTxn, if_pos hj]⟩
    · exact ⟨.busError, s, rfl, fun q => by rw [completeTxn, if_neg hj, deliver_busError]⟩

section Bridge

variable {s d : State} {rest : List ScriptLine} {q : Request} {x : HostTxn}
  (h : HostTries s q rest) (hq : requestTxn q = some x)
  (hd : d = { s with held := some (.direct x), script := rest })
include h hd

/-- The direct transaction of a request, held in its place, is what the host tries next. -/
theorem hostTries_direct : HostTries d (.direct x) rest := by
  subst hd
  exact ⟨h.1, .inl ⟨rfl, rfl⟩⟩

include hq

/-- The step on a request goes on as the step on its direct transaction does, the response as the
requester sees it (R71, R72). -/
theorem step_of_bridge (hfree : isHeld x s = false)
    (hwritten : ∀ j, x = .memRead j → j < s.wordCount → s.mem.lookup j ≠ none) :
    ∃ r u, u.responses = s.responses ∧ step d = .next (respond r u) ∧
      step s = .next (respond (deliver q r) u) := by
  obtain ⟨r, u, hresp, hdone⟩ := completeTxn_answers (s := pending rest s) hfree hwritten
  refine ⟨r, u, hresp, ?_, (step_of_free h hq hfree).trans (hdone q)⟩
  have hdirect := step_of_free (x := x) (hostTries_direct h hd) rfl (by subst hd; exact hfree)
  subst hd
  exact hdirect.trans (hdone (.direct x))

end Bridge

/-- Settles O29: bytes and words by induction on the bytes, the refusals by the alignment that fails, and
the rest by what a transaction does being the same for whatever request it is performed. -/
theorem bridgeIsLittleEndian : Obligations.BridgeIsLittleEndian := by
  refine ⟨?_, ?_, ?_, ?_, ?_, ?_, fun q => ⟨deliver_ok q, deliver_busError q⟩, ?_⟩
  · intro j bs hbs
    exact ⟨_, by rw [requestTxn, hbs, wordAtOffset_mul]; rfl, extractLsb'_bytesToNat (by omega)⟩
  · intro x bs hbs
    exact ⟨_, by rw [requestTxn, hbs, csrAtOffset_mul]; rfl, extractLsb'_bytesToNat (by omega)⟩
  · intro j o w
    exact ⟨by rw [requestTxn, wordAtOffset_mul]; rfl, fun v => ⟨_, rfl, length_natToBytes 8 _,
      getElem_natToBytes_toNat v⟩⟩
  · intro x o w
    exact ⟨by rw [requestTxn, csrAtOffset_mul]; rfl, fun v => ⟨_, rfl, length_natToBytes 4 _,
      getElem_natToBytes_toNat v⟩⟩
  · intro s rest o w
    exact ⟨fun h hbad => step_of_refused h (by rw [requestTxn, wordAtOffset_eq_none hbad]; rfl),
      fun h hbad => step_of_refused h (by rw [requestTxn, csrAtOffset_eq_none hbad]; rfl)⟩
  · intro s rest o bs
    exact ⟨fun h hbad => step_of_refused h (by rw [requestTxn, wordAtOffset_eq_none hbad]; rfl),
      fun h hbad => step_of_refused h (by rw [requestTxn, csrAtOffset_eq_none hbad]; rfl)⟩
  · intro s d rest q x h hq hd
    have hdirect := hostTries_direct h hd
    refine ⟨hdirect, fun hheld => ?_, fun hfree hwritten => ?_, ?_⟩
    · exact ⟨step_of_held h hq hheld, step_of_held hdirect rfl (by subst hd; exact hheld)⟩
    · obtain ⟨r, u, hresp, hstep, hbus⟩ := step_of_bridge h hq hd hfree hwritten
      refine ⟨fun t ht => ?_, by simp [hstep], by simp [hstep]⟩
      cases hstep.symm.trans ht
      exact ⟨r, by rw [respond_responses, hresp], by rw [hbus, ← hresp]; rfl⟩
    · rintro j rfl hj hidle hnone
      have hstep := step_of_free h hq (isHeld_of_idle hidle _)
      refine ⟨fun hany => ⟨Config.freeWord s.draws, s.draws + 1, ?_⟩, fun hrefuse => ?_⟩
      · exact hstep.trans (completeTxn_memRead_of_none (s := pending rest s) hj hnone hany)
      · exact hstep.trans (completeTxn_memRead_refused (s := pending rest s) hj hnone hrefuse)

end Sys2Proof.Proofs

/-! ### Proofs for the family 20_memory: the host's data accesses, what is held while a command is in
flight, and the words a command may write. -/

namespace Sys2Proof.Proofs

open Sys2Proof.Machine Sys2Proof.Safety

/-! #### Data accesses: out of range and held

A read and a write of a data word are held alike and answered `BusError` alike (R66, R67). -/

/-- The transaction reads or writes the data word `j`. -/
def AccessesWord (x : HostTxn) (j : Nat) : Prop := x = .memRead j ∨ ∃ v, x = .memWrite j v

section DataAccess

variable {s : State} {rest : List ScriptLine} {x : HostTxn} {j : Nat} (hx : AccessesWord x j)
include hx

theorem isHeld_of_accessesWord (s : State) : isHeld x s = (s.busy && decide (j < s.wordCount)) := by
  obtain rfl | ⟨v, rfl⟩ := hx <;> rfl

theorem completeTxn_of_nonexistentWord (q : Request) (hj : s.wordCount ≤ j) :
    completeTxn q x s = .next (respond .busError s) := by
  obtain rfl | ⟨v, rfl⟩ := hx <;> exact if_neg hj.not_gt

variable (h : HostTries s (.direct x) rest)
include h

/-- An access to a word that does not exist is answered at once, busy or not. -/
theorem step_of_nonexistentWord (hj : s.wordCount ≤ j) :
    step s = .next (answered s rest .busError) := by
  have hfree : isHeld x s = false := by simp [isHeld_of_accessesWord hx, hj]
  exact (step_of_free h rfl hfree).trans
    (completeTxn_of_nonexistentWord (s := pending rest s) hx (.direct x) hj)

theorem step_of_busyAccess (hj : j < s.wordCount) (hbusy : s.busy = true) :
    step s = .next (stillHeld s (.direct x) rest) :=
  step_of_held h rfl (by simp [isHeld_of_accessesWord hx, hj, hbusy])

end DataAccess

/-! #### Data accesses to an idle block -/

/-- A write of a word that exists stores it and answers `Ok`. -/
theorem step_of_memWrite {s : State} {rest : List ScriptLine} {j : Nat} {v : F64}
    (h : HostTries s (.direct (.memWrite j v)) rest) (hj : j < s.wordCount) (hidle : s.busy = false) :
    step s = .next { answered s rest .ok with mem := s.mem.write j v } :=
  (step_of_free h rfl (isHeld_of_idle hidle _)).trans (if_pos hj)

/-- Settles O27: the read by what has been written to the word, the write by the law of a written
memory. -/
theorem dataMemoryTransactions : Obligations.DataMemoryTransactions := by
  refine ⟨fun s rest j h => ?_, fun s rest j v h => ?_⟩
  · have hx : AccessesWord (.memRead j) j := .inl rfl
    refine ⟨step_of_nonexistentWord hx h, step_of_busyAccess hx h, fun hj hidle => ?_⟩
    have hstep := step_of_free h rfl (isHeld_of_idle hidle _)
    refine ⟨fun v hv => ?_, fun hnone hany => ⟨Config.freeWord s.draws, s.draws + 1, ?_⟩,
      fun hnone hrefuse => ?_⟩
    · exact hstep.trans (completeTxn_memRead_of_some (s := pending rest s) hj hv)
    · exact hstep.trans (completeTxn_memRead_of_none (s := pending rest s) hj hnone hany)
    · exact hstep.trans (completeTxn_memRead_refused (s := pending rest s) hj hnone hrefuse)
  · have hx : AccessesWord (.memWrite j v) j := .inr ⟨v, rfl⟩
    exact ⟨step_of_nonexistentWord hx h, step_of_busyAccess hx h, fun hj hidle =>
      ⟨_, step_of_memWrite h hj hidle, lookup_write_same _ _ _, fun a ha => lookup_write_other _ _ ha⟩⟩

/-! #### What the host can complete while a command is in flight -/

section Busy

variable {s : State} {rest : List ScriptLine} {x : HostTxn} (hbusy : s.busy = true)
include hbusy

/-- What is held while a command is in flight: the writes of `N`, `LEN` and `CMD`, and the accesses to
data words that exist (R70). -/
theorem isHeld_busy_iff : isHeld x s = true ↔
    (∃ v, x = .csrWrite 4 v) ∨ (∃ v, x = .csrWrite 5 v) ∨ (∃ v, x = .csrWrite 8 v) ∨
    (∃ j, x = .memRead j ∧ j < s.wordCount) ∨ (∃ j v, x = .memWrite j v ∧ j < s.wordCount) := by
  cases x with
  | csrRead y => simp [isHeld]
  | csrWrite y v => simp [isHeld, hbusy, Fin.ext_iff, or_assoc]
  | memRead j => simp [isHeld, hbusy]
  | memWrite j v => simp [isHeld, hbusy]

/-- A transaction that completes while a command is in flight is answered and leaves the block alone, or
is a write of `CTRL`. -/
theorem step_of_free_busy (h : HostTries s (.direct x) rest) (hfree : isHeld x s = false) :
    (∃ r, step s = .next (answered s rest r)) ∨
    (∃ v, step s = .next (writeCtrl v (answered s rest .ok))) := by
  cases x with
  | csrRead y => exact .inl ⟨_, step_of_csrRead h⟩
  | csrWrite y v =>
    obtain ⟨t, ht⟩ := csrWrite_goesOn (s := pending rest s) hfree
    rcases csrWrite_eq_next ht with ⟨rfl, -⟩ | ⟨rfl, -⟩ | ⟨rfl, -⟩ | ⟨rfl, -⟩ | rfl
    · exact .inr ⟨v, step_of_ctrlWrite h⟩
    · simp [isHeld, hbusy] at hfree
    · simp [isHeld, hbusy] at hfree
    · simp [isHeld, hbusy] at hfree
    · exact .inl ⟨.ok, step_of_csrWrite h hfree ht⟩
  | memRead j =>
    have hj : s.wordCount ≤ j := by simpa [isHeld, hbusy] using hfree
    exact .inl ⟨_, step_of_nonexistentWord (.inl rfl) h hj⟩
  | memWrite j v =>
    have hj : s.wordCount ≤ j := by simpa [isHeld, hbusy] using hfree
    exact .inl ⟨_, step_of_nonexistentWord (.inr ⟨v, rfl⟩) h hj⟩

end Busy

/-- Settles O28: what completes is answered, or writes `CTRL`, and neither touches what the command in
flight works on. -/
theorem holdsWhileBusy : Obligations.HoldsWhileBusy := by
  intro s rest x h hbusy
  refine ⟨isHeld_busy_iff hbusy, step_of_held h rfl, fun hfree => ?_⟩
  rcases step_of_free_busy hbusy h hfree with ⟨r, hstep⟩ | ⟨v, hstep⟩
  · exact ⟨_, hstep, rfl, hbusy, rfl, rfl, rfl, rfl, rfl, rfl, rfl, rfl⟩
  · exact ⟨_, hstep, by simp [answered, hbusy]⟩

/-! #### The words a command may write -/

/-- The micro-op may write the word `j` (R26): a load writes none, `uLIFT` the imaginary word of its
entry, and every other micro-op both words of each entry it names. -/
def MicroOpWrites (u : UOp) (j : Nat) : Prop :=
  match u with
  | .ld _ _ => False
  | .lift e => j = 2 * e + 1
  | u => ∃ e ∈ entriesNamed u, j = 2 * e ∨ j = 2 * e + 1

/-- A micro-op leaves every word alone that it may not write. -/
theorem perform_lookup_of_not_writes {u : UOp} {j : Nat} (s : State) (h : ¬ MicroOpWrites u j) :
    (perform u s).mem.lookup j = s.mem.lookup j := by
  cases u with
  | ld d e => simp [perform, microLd]
  | lift e => exact lookup_write_other _ _ h
  | _ => exact perform_lookup s fun e he =>
      ⟨fun hj => h ⟨e, he, .inl hj⟩, fun hj => h ⟨e, he, .inr hj⟩⟩

/-- Every word a micro-op may write is a word of an entry it names (R81). -/
theorem MicroOpWrites.named {u : UOp} {j : Nat} (h : MicroOpWrites u j) :
    ∃ e ∈ entriesNamed u, j = 2 * e ∨ j = 2 * e + 1 := by
  cases u with
  | ld d e => exact h.elim
  | lift e => exact ⟨e, List.mem_singleton_self e, .inr h⟩
  | _ => exact h

theorem MicroOpWrites.lt {u : UOp} {j n : Nat} (h : MicroOpWrites u j)
    (hn : ∀ {e}, e ∈ entriesNamed u → e < n) : j < 2 * n := by
  obtain ⟨e, he, hj⟩ := h.named
  have := hn he
  omega

/-- A micro-op of a command whose checks passed writes inside the command's footprint (R82). -/
theorem mayWriteWord_of_microOpWrites {p : Config.Params} {i : Instr} {nl ll : Word32} {u : UOp}
    {j : Nat} (hc : issueCheck p i nl ll = none) (hu : u ∈ expand i nl ll)
    (hj : MicroOpWrites u j) : MayWriteWord i nl ll j := by
  cases i with
  | cld d idx =>
    obtain rfl := List.mem_singleton.mp hu
    exact hj
  | cst d idx =>
    obtain rfl := List.mem_singleton.mp hu
    simpa [MayWriteWord, entriesNamed] using hj.named
  | bitrev => exact hj.lt (reorder_entries_lt (transformCheck_eq_none hc).1 hu)
  | bstage st =>
    obtain ⟨hn, -, hst, hlog⟩ := checkBstage_eq_none hc
    exact hj.lt (stage_entries_lt hn hst hlog hu)
  | fft => exact hj.lt (expandFft_entries_lt (transformCheck_eq_none hc).1 hu)
  | ifft => exact hj.lt (expandIfft_entries_lt (transformCheck_eq_none hc).1 hu)
  | conjv => exact hj.lt (entries_lt_of_each (fun _ => rfl) hu)
  | ipost => exact hj.lt (entries_lt_of_each (fun _ => rfl) hu)
  | zpad =>
    refine ⟨?_, hj.lt (expandZpad_entries_lt hu)⟩
    obtain ⟨k, -, rfl⟩ := List.mem_map.mp hu
    obtain ⟨e, he, hj⟩ := hj.named
    obtain rfl := List.mem_singleton.mp he
    omega
  | lift =>
    refine ⟨hj.lt (entries_lt_of_each (fun _ => rfl) hu), ?_⟩
    obtain ⟨e, -, rfl⟩ := List.mem_map.mp hu
    obtain rfl : j = 2 * e + 1 := hj
    omega
  | _ =>
    obtain rfl := List.mem_singleton.mp hu
    obtain ⟨e, he, -⟩ := hj.named
    cases he

/-- Settles O40: of the five things a step of a command can be, only a micro-op writes memory. -/
theorem footprintOfEveryCommand : Obligations.FootprintOfEveryCommand := by
  intro i s t hcheck h j hj
  rcases exec_eq_next h with ⟨-, -, rfl⟩ | ⟨-, -, f, -, rfl⟩ | ⟨-, -, -, rfl⟩ | ⟨-, -, rfl⟩ |
    ⟨hbusy, u, hu, -, -, rfl⟩
  · rfl
  · rfl
  · rfl
  · rfl
  · have hnot : ¬ MicroOpWrites u j := fun hw =>
      hj (mayWriteWord_of_microOpWrites (hcheck hbusy) (List.mem_of_getElem? hu) hw)
    exact perform_lookup_of_not_writes s hnot

end Sys2Proof.Proofs

/-! ### Proofs for the family 30_encoding: decoding and encoding are inverse, and the words that are
illegal. -/

namespace Sys2Proof.Proofs

open Sys2Proof.Machine Sys2Proof.Safety
open Sys2Proof.Laws.OpcodeField (fieldOpcode_assemble bitsR3_lt bitsR2_lt)

/-! #### The decoder by the opcode of the word -/

/-- The command of `i`'s kind whose operands are the fields of `w` (R86, R96). -/
def withOperandsOf (w : Word32) : Instr → Instr
  | .nop => .nop
  | .cadd _ _ _ => .cadd (fieldRd w) (fieldRa w) (fieldRb w)
  | .csub _ _ _ => .csub (fieldRd w) (fieldRa w) (fieldRb w)
  | .cmul _ _ _ => .cmul (fieldRd w) (fieldRa w) (fieldRb w)
  | .cconj _ _ => .cconj (fieldRd w) (fieldRa w)
  | .cpolar _ _ => .cpolar (fieldRd w) (fieldRa w)
  | .twid _ _ _ => .twid (fieldRd w) (fieldS w) (fieldLow16 w)
  | .bfly _ _ _ => .bfly (fieldRd w) (fieldRa w) (fieldRb w)
  | .cld _ _ => .cld (fieldRd w) (fieldLow16 w)
  | .cst _ _ => .cst (fieldRd w) (fieldLow16 w)
  | .bitrev => .bitrev
  | .bstage _ => .bstage (fieldS w)
  | .fft => .fft
  | .conjv => .conjv
  | .ipost => .ipost
  | .ifft => .ifft
  | .npow2 => .npow2
  | .zpad => .zpad
  | .lift => .lift

/-- A word with the opcode of a command is checked against that command's format (R96). -/
theorem decode_of_opcode {w : Word32} {i : Instr} (h : fieldOpcode w = i.opcode) :
    decode w = checkFormat i.format i.opcode w (withOperandsOf w i) := by
  unfold decode
  rw [h]
  cases i <;> rfl

theorem checkFormat_of_masked {f : Format} {op : Nat} {w : Word32} (i : Instr)
    (h : w &&& f.mask = BitVec.ofNat 32 (op * 2 ^ 26)) : checkFormat f op w i = .ok i := by
  unfold checkFormat
  rw [if_pos h]

theorem checkFormat_of_not_masked {f : Format} {op : Nat} {w : Word32} (i : Instr)
    (h : w &&& f.mask ≠ BitVec.ofNat 32 (op * 2 ^ 26)) :
    checkFormat f op w i = .error .mustBeZero := by
  unfold checkFormat
  rw [if_neg h]

theorem checkFormat_ne_reservedOpcode (f : Format) (op : Nat) (w : Word32) (i : Instr) :
    checkFormat f op w i ≠ .error .reservedOpcode := by
  unfold checkFormat
  split <;> simp

theorem field_lt (w : Word32) (lo width : Nat) : field w lo width < 2 ^ width :=
  Nat.mod_lt _ (Nat.two_pow_pos width)

/-! #### The fields of an assembled word -/

/-- Below bit 26 an assembled word has the bits of its operands. -/
theorem field_assemble (op operands : Nat) {lo width : Nat} (h : lo + width ≤ 26) :
    field (assemble op operands) lo width = operands / 2 ^ lo % 2 ^ width := by
  have hword : 2 ^ lo * 2 ^ width ∣ 2 ^ 32 := pow_add 2 lo width ▸ pow_dvd_pow 2 (by omega)
  have hopcode : 2 ^ lo * 2 ^ width ∣ op * 2 ^ 26 :=
    (pow_add 2 lo width ▸ pow_dvd_pow 2 h).mul_left op
  rw [field, assemble, BitVec.toNat_ofNat, ← Nat.mod_mul_right_div_self,
    ← Nat.mod_mul_right_div_self, Nat.mod_mod_of_dvd _ hword, Nat.add_mod,
    Nat.mod_eq_zero_of_dvd hopcode, Nat.zero_add, Nat.mod_mod]

theorem regField_assemble (op operands : Nat) {lo : Nat} {r : Reg} (h : lo + 3 ≤ 26)
    (hr : operands / 2 ^ lo % 2 ^ 3 = r.val) :
    Fin.ofNat 8 (field (assemble op operands) lo 3) = r :=
  Fin.ext (by rw [val_regField, field_assemble op operands h, hr])

section Fields

variable (op : Nat) (rd ra rb : Reg)

theorem operands_of_r3 : fieldRd (assemble op (bitsR3 rd ra rb)) = rd ∧
    fieldRa (assemble op (bitsR3 rd ra rb)) = ra ∧ fieldRb (assemble op (bitsR3 rd ra rb)) = rb := by
  unfold bitsR3
  refine ⟨regField_assemble op _ (by decide) ?_, regField_assemble op _ (by decide) ?_,
    regField_assemble op _ (by decide) ?_⟩ <;> omega

theorem operands_of_r2 : fieldRd (assemble op (bitsR2 rd ra)) = rd ∧
    fieldRa (assemble op (bitsR2 rd ra)) = ra := by
  unfold bitsR2
  refine ⟨regField_assemble op _ (by decide) ?_, regField_assemble op _ (by decide) ?_⟩ <;> omega

theorem operands_of_t {s k : Nat} (hs : stageFits s) (hk : twiddleIndexFits k) :
    fieldRd (assemble op (bitsT rd s k)) = rd ∧ fieldS (assemble op (bitsT rd s k)) = s ∧
      fieldLow16 (assemble op (bitsT rd s k)) = k := by
  unfold bitsT
  refine ⟨regField_assemble op _ (by decide) ?_, (field_assemble op _ (by decide)).trans ?_,
    (field_assemble op _ (by decide)).trans ?_⟩ <;> omega

theorem operands_of_m {idx : Nat} (h : entryIndexFits idx) :
    fieldRd (assemble op (bitsM rd idx)) = rd ∧ fieldLow16 (assemble op (bitsM rd idx)) = idx := by
  unfold bitsM
  refine ⟨regField_assemble op _ (by decide) ?_, (field_assemble op _ (by decide)).trans ?_⟩ <;>
    omega

theorem operands_of_s {s : Nat} (h : stageFits s) : fieldS (assemble op (bitsS s)) = s := by
  unfold bitsS
  refine (field_assemble op _ (by decide)).trans ?_
  omega

end Fields

/-- The operands read from the word of a command are its own (R86, R104). -/
theorem withOperandsOf_encode {i : Instr} (h : i.wellFormed = true) :
    withOperandsOf (encode i) i = i := by
  cases i with
  | cadd rd ra rb | csub rd ra rb | cmul rd ra rb | bfly rd ra rb =>
    obtain ⟨hd, ha, hb⟩ := operands_of_r3 (Instr.opcode _) rd ra rb
    rw [withOperandsOf, encode, hd, ha, hb]
  | cconj rd ra | cpolar rd ra =>
    obtain ⟨hd, ha⟩ := operands_of_r2 (Instr.opcode _) rd ra
    rw [withOperandsOf, encode, hd, ha]
  | twid rd s k =>
    obtain ⟨hs, hk⟩ : stageFits s ∧ twiddleIndexFits k := by simpa [Instr.wellFormed] using h
    obtain ⟨hrd, hstage, hindex⟩ := operands_of_t (Instr.opcode _) rd hs hk
    rw [withOperandsOf, encode, hrd, hstage, hindex]
  | cld rd idx | cst rd idx =>
    obtain ⟨hd, hidx⟩ := operands_of_m (Instr.opcode _) rd (of_decide_eq_true h)
    rw [withOperandsOf, encode, hd, hidx]
  | bstage s =>
    rw [withOperandsOf, encode, operands_of_s _ (of_decide_eq_true h)]
  | _ => rfl

/-! #### The word of a command passes the check of its format -/

/-- The mask of a format has ones at the bits it fixes, and masking leaves those alone. -/
theorem field_mask_fixed {w m : Word32} {lo width : Nat} (hm : field m lo width = 2 ^ width - 1) :
    field (w &&& m) lo width = field w lo width :=
  (field_of_masked rfl hm).symm

theorem field_and (w m : Word32) (lo width : Nat) :
    field (w &&& m) lo width = field w lo width &&& field m lo width := by
  simp only [field, BitVec.toNat_and, Nat.and_div_two_pow, Nat.and_mod_two_pow]

/-- The mask of a format has zeros at the operands, and masking clears those. -/
theorem field_mask_operand {w m : Word32} {lo width : Nat} (hm : field m lo width = 0) :
    field (w &&& m) lo width = 0 := by
  rw [field_and, hm, Nat.and_zero]

/-- A word is of a format when it has the opcode and no bit below it survives the mask. -/
theorem masked_eq_opcodeWord {f : Format} {op : Nat} {w : Word32} (hop : fieldOpcode w = op)
    (hlow : field (w &&& f.mask) 0 26 = 0) : w &&& f.mask = BitVec.ofNat 32 (op * 2 ^ 26) := by
  have hmask : field f.mask 26 6 = 2 ^ 6 - 1 := by cases f <;> decide
  have hopcode : field (w &&& f.mask) 26 6 = op := (field_mask_fixed hmask).trans hop
  have hlt : op < 2 ^ 6 := hop ▸ field_lt w 26 6
  refine BitVec.eq_of_toNat_eq ?_
  rw [toNat_eq_low_add_opcode, hlow, hopcode, BitVec.toNat_ofNat]
  omega

/-- The bits of a word up to a field's end are zero when those below the field and the field are. -/
theorem low_zero_add {w : Word32} (lo width : Nat) (hlow : field w 0 lo = 0)
    (hfield : field w lo width = 0) : field w 0 (lo + width) = 0 := by
  rw [field_zero_add, hlow, hfield, Nat.mul_zero]

/-- Where a format fixes all bits of a field, operands that are zero there leave none in the masked
word. -/
theorem field_masked_assemble {f : Format} {op operands lo width : Nat} (hle : lo + width ≤ 26)
    (hm : field f.mask lo width = 2 ^ width - 1) (hz : operands / 2 ^ lo % 2 ^ width = 0) :
    field (assemble op operands &&& f.mask) lo width = 0 := by
  rw [field_mask_fixed hm, field_assemble op operands hle, hz]

section Masks

variable {op : Nat} (hop : op < 2 ^ 6)
include hop

theorem r3_masked (rd ra rb : Reg) :
    assemble op (bitsR3 rd ra rb) &&& Format.r3.mask = BitVec.ofNat 32 (op * 2 ^ 26) :=
  masked_eq_opcodeWord (fieldOpcode_assemble op _ hop (bitsR3_lt rd ra rb))
    (low_zero_add 17 9
      (field_masked_assemble (by decide) (by decide) (by unfold bitsR3; omega))
      (field_mask_operand (by decide)))

theorem r2_masked (rd ra : Reg) :
    assemble op (bitsR2 rd ra) &&& Format.r2.mask = BitVec.ofNat 32 (op * 2 ^ 26) :=
  masked_eq_opcodeWord (fieldOpcode_assemble op _ hop (bitsR2_lt rd ra))
    (low_zero_add 20 6
      (field_masked_assemble (by decide) (by decide) (by unfold bitsR2; omega))
      (field_mask_operand (by decide)))

theorem t_masked (rd : Reg) {s k : Nat} (hs : stageFits s) (hk : twiddleIndexFits k) :
    assemble op (bitsT rd s k) &&& Format.t.mask = BitVec.ofNat 32 (op * 2 ^ 26) :=
  masked_eq_opcodeWord (fieldOpcode_assemble op _ hop (by unfold bitsT; omega))
    (low_zero_add 18 8
      (low_zero_add 16 2 (field_mask_operand (by decide))
        (field_masked_assemble (by decide) (by decide) (by unfold bitsT; omega)))
      (field_mask_operand (by decide)))

theorem m_masked (rd : Reg) {idx : Nat} (h : entryIndexFits idx) :
    assemble op (bitsM rd idx) &&& Format.m.mask = BitVec.ofNat 32 (op * 2 ^ 26) :=
  masked_eq_opcodeWord (fieldOpcode_assemble op _ hop (by unfold bitsM; omega))
    (low_zero_add 23 3
      (low_zero_add 16 7 (field_mask_operand (by decide))
        (field_masked_assemble (by decide) (by decide) (by unfold bitsM; omega)))
      (field_mask_operand (by decide)))

theorem s_masked {s : Nat} (h : stageFits s) :
    assemble op (bitsS s) &&& Format.s.mask = BitVec.ofNat 32 (op * 2 ^ 26) :=
  masked_eq_opcodeWord (fieldOpcode_assemble op _ hop (by unfold bitsS; omega))
    (low_zero_add 23 3
      (low_zero_add 18 5
        (field_masked_assemble (by decide) (by decide) (by unfold bitsS; omega))
        (field_mask_operand (by decide)))
      (field_masked_assemble (by decide) (by decide) (by unfold bitsS; omega)))

theorem z_masked : assemble op 0 &&& Format.z.mask = BitVec.ofNat 32 (op * 2 ^ 26) :=
  masked_eq_opcodeWord (fieldOpcode_assemble op 0 hop (by decide))
    (field_masked_assemble (by decide) (by decide) (by decide))

end Masks

/-- The word of a command has its opcode and no must-be-zero bit (R87, R104). -/
theorem encode_masked {i : Instr} (h : i.wellFormed = true) :
    encode i &&& i.format.mask = BitVec.ofNat 32 (i.opcode * 2 ^ 26) := by
  cases i with
  | cadd rd ra rb | csub rd ra rb | cmul rd ra rb | bfly rd ra rb =>
    exact r3_masked (opcode_lt _) rd ra rb
  | cconj rd ra | cpolar rd ra => exact r2_masked (opcode_lt _) rd ra
  | twid rd s k =>
    obtain ⟨hs, hk⟩ : stageFits s ∧ twiddleIndexFits k := by simpa [Instr.wellFormed] using h
    exact t_masked (opcode_lt _) rd hs hk
  | cld rd idx | cst rd idx => exact m_masked (opcode_lt _) rd (of_decide_eq_true h)
  | bstage s => exact s_masked (opcode_lt _) (of_decide_eq_true h)
  | _ => exact z_masked (opcode_lt _)

/-- The opcode of a word is the one of its bits under any format's mask. -/
theorem fieldOpcode_of_masked {f : Format} {op : Nat} {w : Word32} (hop : op < 2 ^ 6)
    (h : w &&& f.mask = BitVec.ofNat 32 (op * 2 ^ 26)) : fieldOpcode w = op :=
  (field_of_checkFormat hop (checkFormat_of_masked .nop h) (by cases f <;> decide)).trans (by omega)

/-! #### Decoding and encoding -/

/-- Settles O2: the word of a command passes the check of its format, and the operands read from it
are the command's. -/
theorem encodeThenDecode : Obligations.EncodeThenDecode := by
  intro i h
  have hmasked := encode_masked h
  calc decode (encode i)
      = checkFormat i.format i.opcode (encode i) (withOperandsOf (encode i) i) :=
        decode_of_opcode (fieldOpcode_of_masked (opcode_lt i) hmasked)
    _ = .ok (withOperandsOf (encode i) i) := checkFormat_of_masked _ hmasked
    _ = .ok i := by rw [withOperandsOf_encode h]

/-- The operands of a decoded command are fields of the word, so they fit their fields. -/
theorem wellFormed_of_decode {w : Word32} {i : Instr} (h : decode w = .ok i) :
    i.wellFormed = true := by
  unfold decode at h
  split at h
  case h_20 => cases h
  all_goals obtain rfl := (checkFormat_eq_ok h).2
  case h_7 =>
    exact Bool.and_eq_true_iff.mpr
      ⟨decide_eq_true (field_lt w 18 5), decide_eq_true (field_lt w 0 16)⟩
  case h_9 | h_10 => exact decide_eq_true (field_lt w 0 16)
  case h_12 => exact decide_eq_true (field_lt w 18 5)
  all_goals rfl

/-- Settles O3: the fields of a word fit, and its format leaves no other bit free. -/
theorem decodedWordIsCanonical : Obligations.DecodedWordIsCanonical :=
  fun _ _ h => ⟨wellFormed_of_decode h, encode_of_decode h⟩

/-- Settles O1, by running the decoder and the encoder on the six words. -/
theorem specWordsDecode : Obligations.SpecWordsDecode := by
  refine ⟨?_, ?_, ?_, ?_, ?_, ?_⟩ <;> exact ⟨by decide, by decide⟩

/-! #### Illegal words -/

/-- The opcode values that R97 reserves. -/
def ReservedOpcode (op : Nat) : Prop :=
  op = 0 ∨ (2 ≤ op ∧ op ≤ 7) ∨ (0x0D ≤ op ∧ op ≤ 0x0F) ∨ (0x12 ≤ op ∧ op ≤ 0x17) ∨
    (0x1A ≤ op ∧ op ≤ 0x1F) ∨ op = 0x26 ∨ op = 0x27 ∨ 0x2B ≤ op

/-- The decoder knows exactly the opcodes that are not reserved (R95, R97). -/
theorem reservedOpcode_iff (w : Word32) :
    ReservedOpcode (fieldOpcode w) ↔ decode w = .error .reservedOpcode := by
  unfold ReservedOpcode decode
  split
  case h_20 =>
    refine iff_of_true ?_ rfl
    simp only [imp_false] at *
    omega
  all_goals exact iff_of_false (by omega) (checkFormat_ne_reservedOpcode _ _ _ _)

/-- A word that does not decode raises `IllegalCommand` in an idle block (R97, R98, R218). -/
theorem csrWrite_cmd_illegal {w : Word32} {e : Illegal} {s : State} (hs : Idle s)
    (h : decode w = .error e) : csrWrite 8 w s = .next (faulted 1 w s) :=
  issueWord_illegal hs.2 h

/-- Settles O4: the decoder's arms are the opcodes that are not reserved, and any word that does not
decode is refused with the word recorded. -/
theorem reservedOpcodesAreIllegal : Obligations.ReservedOpcodesAreIllegal :=
  ⟨reservedOpcode_iff, fun _ _ hs h => csrWrite_cmd_illegal hs h, by decide, by decide, by decide⟩

/-- Settles O5: the opcode selects the format, and the format's check fails. -/
theorem mustBeZeroBitsAreIllegal : Obligations.MustBeZeroBitsAreIllegal := by
  intro w i hop hmask
  have hillegal : decode w = .error .mustBeZero :=
    (decode_of_opcode hop).trans (checkFormat_of_not_masked _ hmask)
  exact ⟨hillegal, fun _ hs => csrWrite_cmd_illegal hs hillegal⟩

end Sys2Proof.Proofs

/-! ### Proofs for the family 40_numerics: the bits of a word and what rounding makes of them. -/

namespace Sys2Proof.Proofs

open Sys2Proof.Machine

/-! #### A word as its sign and its bits 62:0

Read as a number, bits 62:0 say the class of a word, and up to the infinity the magnitude rises with
them: a greater exponent or, at one exponent, a greater fraction is a greater magnitude (R106). -/

/-- Bits 62:0 of a word: the exponent above the fraction (R105). -/
def magBits (x : F64) : Nat := expField x * 2 ^ 52 + fracField x

theorem fields_lt (x : F64) : expField x < 2 ^ 11 ∧ fracField x < 2 ^ 52 :=
  ⟨Nat.mod_lt _ (by norm_num), Nat.mod_lt _ (by norm_num)⟩

theorem magBits_lt (x : F64) : magBits x < 2 ^ 63 := by
  have := fields_lt x
  unfold magBits
  omega

theorem magBits_packSign (s : Bool) {b : Nat} (h : b < 2 ^ 63) : magBits (packSign s b) = b := by
  rw [magBits, expField_packSign s b h, fracField_packSign s b h]
  omega

theorem packSign_magBits (x : F64) : packSign (signBit x) (magBits x) = x := by
  have hlt := x.isLt
  have hsign : signBit x = decide (2 ^ 63 ≤ x.toNat) := BitVec.msb_eq_decide x
  apply BitVec.eq_of_toNat_eq
  rw [packSign_toNat _ _ (magBits_lt x), hsign]
  unfold magBits expField fracField
  by_cases h : 2 ^ 63 ≤ x.toNat
  · rw [decide_eq_true h, if_pos rfl]
    omega
  · rw [decide_eq_false h, if_neg Bool.false_ne_true]
    omega

theorem fracField_mod_two (x : F64) : fracField x % 2 = magBits x % 2 := by
  unfold magBits
  omega

theorem isZero_iff (x : F64) : isZero x = true ↔ magBits x = 0 := by
  simp only [isZero, magBits, Bool.and_eq_true, beq_iff_eq]
  omega

theorem isInf_iff (x : F64) : isInf x = true ↔ magBits x = 2047 * 2 ^ 52 := by
  have := fields_lt x
  simp only [isInf, magBits, Bool.and_eq_true, beq_iff_eq]
  omega

theorem isNaN_eq_false_iff (x : F64) : isNaN x = false ↔ magBits x ≤ 2047 * 2 ^ 52 := by
  have := fields_lt x
  simp only [isNaN, magBits, Bool.and_eq_false_iff, beq_eq_false_iff_ne, bne_eq_false_iff_eq]
  omega

theorem isFinite_iff (x : F64) : isFinite x = true ↔ magBits x < 2047 * 2 ^ 52 := by
  have := fields_lt x
  simp only [isFinite, magBits, bne_iff_ne]
  omega

theorem not_isNaN_of_isFinite {x : F64} (h : isFinite x = true) : isNaN x = false :=
  (isNaN_eq_false_iff x).mpr ((isFinite_iff x).mp h).le

theorem not_isNaN_of_isInf {x : F64} (h : isInf x = true) : isNaN x = false :=
  (isNaN_eq_false_iff x).mpr ((isInf_iff x).mp h).le

theorem not_isInf_of_isFinite {x : F64} (h : isFinite x = true) : isInf x = false :=
  Bool.eq_false_iff.mpr fun hi => ((isFinite_iff x).mp h).ne ((isInf_iff x).mp hi)

theorem not_isZero_of_isInf {x : F64} (h : isInf x = true) : isZero x = false :=
  Bool.eq_false_iff.mpr fun hz => by
    rw [isInf_iff] at h
    rw [isZero_iff] at hz
    omega

theorem isFinite_of_isZero {x : F64} (h : isZero x = true) : isFinite x = true := by
  rw [isZero_iff] at h
  rw [isFinite_iff]
  omega

theorem isFinite_iff_not_isNaN_not_isInf (x : F64) :
    isFinite x = true ↔ isNaN x = false ∧ isInf x = false := by
  rw [isFinite_iff, isNaN_eq_false_iff, Bool.eq_false_iff, Ne, isInf_iff]
  omega

theorem eq_zeroOf_of_isZero {x : F64} (h : isZero x = true) : x = zeroOf (signBit x) := by
  rw [isZero_iff] at h
  conv_lhs => rw [← packSign_magBits x, h]
  cases signBit x <;> rfl

theorem eq_infOf_of_isInf {x : F64} (h : isInf x = true) : x = infOf (signBit x) := by
  rw [isInf_iff] at h
  conv_lhs => rw [← packSign_magBits x, h]
  cases signBit x <;> rfl

@[simp] theorem isZero_zeroOf (s : Bool) : isZero (zeroOf s) = true := by cases s <;> rfl
@[simp] theorem signBit_zeroOf (s : Bool) : signBit (zeroOf s) = s := by cases s <;> rfl
@[simp] theorem isInf_infOf (s : Bool) : isInf (infOf s) = true := by cases s <;> rfl
@[simp] theorem signBit_infOf (s : Bool) : signBit (infOf s) = s := by cases s <;> rfl

/-! #### Magnitudes rise with the bits -/

/-- The magnitude of a word with the bits 62:0 `b`, in units of `2^-1074`. -/
def magOfBits (b : Nat) : Nat := mag (packSign false b)

theorem mag_packSign_eq_magOfBits (s : Bool) {b : Nat} (h : b < 2 ^ 63) :
    mag (packSign s b) = magOfBits b := by
  simp only [magOfBits, mag, expField_packSign _ b h, fracField_packSign _ b h]

theorem mag_eq_magOfBits (x : F64) : mag x = magOfBits (magBits x) := by
  rw [← mag_packSign_eq_magOfBits (signBit x) (magBits_lt x), packSign_magBits]

theorem magOfBits_significand {e n : Nat} (hn : n ≤ 2 ^ 53) (he : e = 0 ∨ 2 ^ 52 ≤ n)
    (hb : e * 2 ^ 52 + n ≤ 2047 * 2 ^ 52) : magOfBits (e * 2 ^ 52 + n) = n * 2 ^ e :=
  mag_packSign false e n hn he hb

@[simp] theorem magOfBits_zero : magOfBits 0 = 0 := by
  simpa using magOfBits_significand (e := 0) (n := 0) (by norm_num) (.inl rfl) (by norm_num)

@[simp] theorem magOfBits_one : magOfBits 1 = 1 := by
  simpa using magOfBits_significand (e := 0) (n := 1) (by norm_num) (.inl rfl) (by norm_num)

/-- The significand and the exponent of the bits 62:0, the subnormals at exponent 0. -/
theorem exists_significand (b : Nat) :
    ∃ e n, b = e * 2 ^ 52 + n ∧ n < 2 ^ 53 ∧ (e = 0 ∨ 2 ^ 52 ≤ n) := by
  by_cases hb : b < 2 ^ 52
  · exact ⟨0, b, by omega, by omega, .inl rfl⟩
  · exact ⟨b / 2 ^ 52 - 1, b % 2 ^ 52 + 2 ^ 52, by omega, by omega, .inr (by omega)⟩

theorem magOfBits_lt_succ {b : Nat} (h : b < 2047 * 2 ^ 52) : magOfBits b < magOfBits (b + 1) := by
  obtain ⟨e, n, rfl, hn, he⟩ := exists_significand b
  rw [magOfBits_significand hn.le he h.le, add_assoc,
    magOfBits_significand hn (he.imp_right fun hle => by omega) (by omega)]
  exact Nat.mul_lt_mul_of_pos_right n.lt_succ_self (Nat.two_pow_pos e)

theorem magOfBits_strictMonoOn : StrictMonoOn magOfBits (Set.Iic (2047 * 2 ^ 52)) :=
  strictMonoOn_Iic_of_lt_succ fun _ hb => magOfBits_lt_succ hb

/-- `k` more in the exponent field of a normal word is a factor `2^k`. -/
theorem magOfBits_add_exponent {b k : Nat} (hnormal : 2 ^ 52 ≤ b)
    (h : b + k * 2 ^ 52 ≤ 2047 * 2 ^ 52) : magOfBits (b + k * 2 ^ 52) = magOfBits b * 2 ^ k := by
  obtain ⟨e, n, rfl, hn, he⟩ := exists_significand b
  have hle : 2 ^ 52 ≤ n := he.elim (fun h0 => by omega) id
  have hsum : e * 2 ^ 52 + n + k * 2 ^ 52 = (e + k) * 2 ^ 52 + n := by ring
  have hbound : e * 2 ^ 52 + n ≤ 2047 * 2 ^ 52 := (Nat.le_add_right _ _).trans h
  rw [hsum] at h ⊢
  rw [magOfBits_significand hn.le he hbound, magOfBits_significand hn.le (.inr hle) h, pow_add,
    mul_assoc]

/-! #### The nearest bits

`roundMag` keeps the quotient by the last place or steps to its successor.  The magnitudes of these two
are neighbours with the number between them, so the nearer one is the nearest of all. -/

/-- The magnitude of the bits `b` in units of `2^-(1074+t)`. -/
def scaledMag (t b : Nat) : Nat := magOfBits b * 2 ^ t

theorem scaledMag_strictMonoOn (t : Nat) : StrictMonoOn (scaledMag t) (Set.Iic (2047 * 2 ^ 52)) :=
  fun _ ha _ hb hab =>
    Nat.mul_lt_mul_of_pos_right (magOfBits_strictMonoOn ha hb hab) (Nat.two_pow_pos t)

@[simp] theorem scaledMag_zero (t : Nat) : scaledMag t 0 = 0 := by simp [scaledMag]

/-- How far the bits `b` are from the magnitude `m * 2^-(1074+t)`, in its units. -/
def gap (m t b : Nat) : Nat := ((m : Int) - scaledMag t b).natAbs

/-- The bits `b` are nearest to the magnitude `m * 2^-(1074+t)` and even where others are as near. -/
def NearestBits (m t b : Nat) : Prop :=
  b ≤ 2047 * 2 ^ 52 ∧
    ∀ c ≤ 2047 * 2 ^ 52, gap m t b ≤ gap m t c ∧ (gap m t b = gap m t c → c ≠ b → b % 2 = 0)

theorem nearestBits_of_lower {m t b : Nat} (hb : b < 2047 * 2 ^ 52) (hlo : scaledMag t b ≤ m)
    (hmid : 2 * m ≤ scaledMag t b + scaledMag t (b + 1))
    (htie : 2 * m = scaledMag t b + scaledMag t (b + 1) → b % 2 = 0) : NearestBits m t b := by
  have hmono := scaledMag_strictMonoOn t
  refine ⟨hb.le, fun c hc => ?_⟩
  unfold gap
  rcases lt_trichotomy c b with hlt | rfl | hgt
  · have := hmono (Set.mem_Iic.mpr hc) (Set.mem_Iic.mpr hb.le) hlt
    omega
  · exact ⟨le_rfl, fun _ hne => absurd rfl hne⟩
  · have : scaledMag t (b + 1) ≤ scaledMag t c :=
      hmono.monotoneOn (Set.mem_Iic.mpr hb) (Set.mem_Iic.mpr hc) hgt
    omega

theorem nearestBits_of_upper {m t b : Nat} (hb : b < 2047 * 2 ^ 52) (hhi : m < scaledMag t (b + 1))
    (hmid : scaledMag t b + scaledMag t (b + 1) ≤ 2 * m)
    (htie : 2 * m = scaledMag t b + scaledMag t (b + 1) → b % 2 = 1) : NearestBits m t (b + 1) := by
  have hmono := scaledMag_strictMonoOn t
  refine ⟨hb, fun c hc => ?_⟩
  unfold gap
  rcases lt_trichotomy c (b + 1) with hlt | rfl | hgt
  · have := hmono.monotoneOn (Set.mem_Iic.mpr hc) (Set.mem_Iic.mpr hb.le) (Nat.le_of_lt_succ hlt)
    omega
  · exact ⟨le_rfl, fun _ hne => absurd rfl hne⟩
  · have : scaledMag t (b + 1) < scaledMag t c :=
      hmono (Set.mem_Iic.mpr hb) (Set.mem_Iic.mpr hc) hgt
    omega

/-- From `2^1024` on the infinity is the nearest. -/
theorem nearestBits_of_overflow {m t : Nat} (h : scaledMag t (2047 * 2 ^ 52) ≤ m) :
    NearestBits m t (2047 * 2 ^ 52) := by
  refine ⟨le_rfl, fun c hc => ⟨?_, fun _ _ => by norm_num⟩⟩
  have := (scaledMag_strictMonoOn t).monotoneOn (Set.mem_Iic.mpr hc) (Set.mem_Iic.mpr le_rfl) hc
  unfold gap
  omega

theorem quotient_lt (m t : Nat) : m / 2 ^ roundShift m t < 2 ^ 53 := by
  rw [Nat.div_lt_iff_lt_mul (Nat.two_pow_pos _), ← pow_add]
  refine Nat.lt_log2_self.trans_le (Nat.pow_le_pow_right (by norm_num) ?_)
  unfold roundShift
  omega

/-- Above the subnormals the quotient by the last place is a full significand. -/
theorem le_quotient {m t : Nat} (h : t < roundShift m t) : 2 ^ 52 ≤ m / 2 ^ roundShift m t := by
  have hlog : 52 + roundShift m t = Nat.log2 m := by
    unfold roundShift at h ⊢
    omega
  have h0 : m ≠ 0 := by
    rintro rfl
    simp at hlog
  rw [Nat.le_div_iff_mul_le (Nat.two_pow_pos _), ← pow_add, hlog]
  exact Nat.log2_self_le h0

theorem scaledMag_significand {e n t : Nat} (hn : n ≤ 2 ^ 53) (he : e = 0 ∨ 2 ^ 52 ≤ n)
    (hb : e * 2 ^ 52 + n ≤ 2047 * 2 ^ 52) : scaledMag t (e * 2 ^ 52 + n) = n * 2 ^ (e + t) := by
  rw [scaledMag, magOfBits_significand hn he hb, pow_add, mul_assoc]

theorem scaledMag_inf (t : Nat) : scaledMag t (2047 * 2 ^ 52) = 2 ^ 52 * 2 ^ (2046 + t) := by
  have hsig : 2047 * 2 ^ 52 = 2046 * 2 ^ 52 + 2 ^ 52 := by norm_num
  rw [hsig, scaledMag_significand (by norm_num) (.inr le_rfl) (by norm_num)]

/-- The greatest finite magnitude. -/
theorem scaledMag_max (t : Nat) :
    scaledMag t (2047 * 2 ^ 52 - 1) = (2 ^ 53 - 1) * 2 ^ (2045 + t) := by
  have hsig : 2047 * 2 ^ 52 - 1 = 2045 * 2 ^ 52 + (2 ^ 53 - 1) := by norm_num
  rw [hsig, scaledMag_significand (by norm_num) (.inr (by norm_num)) (by norm_num)]

/-- Bits past the infinity stand for a magnitude of `2^1024` or more. -/
theorem scaledMag_inf_le {m t : Nat}
    (h : 2047 * 2 ^ 52 ≤ (roundShift m t - t) * 2 ^ 52 + m / 2 ^ roundShift m t) :
    scaledMag t (2047 * 2 ^ 52) ≤ m := by
  have hq := quotient_lt m t
  have hfull := le_quotient (show t < roundShift m t by omega)
  calc scaledMag t (2047 * 2 ^ 52) = 2 ^ 52 * 2 ^ (2046 + t) := scaledMag_inf t
    _ ≤ m / 2 ^ roundShift m t * 2 ^ roundShift m t :=
      Nat.mul_le_mul hfull (Nat.pow_le_pow_right two_pos (by omega))
    _ ≤ m := Nat.div_mul_le_self _ _

theorem roundMag_nearest {m : Nat} (hm : m ≠ 0) (t : Nat) : NearestBits m t (roundMag m t) := by
  have hq := quotient_lt m t
  have hdiv := Nat.div_add_mod m (2 ^ roundShift m t)
  have hmod := Nat.mod_lt m (Nat.two_pow_pos (roundShift m t))
  have he : roundShift m t - t = 0 ∨ 2 ^ 52 ≤ m / 2 ^ roundShift m t :=
    (Nat.eq_zero_or_pos _).imp_right fun hpos => le_quotient (by omega)
  have hsh : roundShift m t - t + t = roundShift m t := Nat.sub_add_cancel (le_max_right _ _)
  have hover := scaledMag_inf_le (m := m) (t := t)
  rw [roundMag, if_neg hm]
  unfold roundHalfEven
  generalize m / 2 ^ roundShift m t = q at *
  generalize m % 2 ^ roundShift m t = r at *
  by_cases hinf : 2047 * 2 ^ 52 ≤ (roundShift m t - t) * 2 ^ 52 + q
  · rw [min_eq_right (by split <;> omega)]
    exact nearestBits_of_overflow (hover hinf)
  have hlo : scaledMag t ((roundShift m t - t) * 2 ^ 52 + q) = 2 ^ roundShift m t * q := by
    rw [scaledMag_significand hq.le he (by omega), hsh, mul_comm]
  have hhi : scaledMag t ((roundShift m t - t) * 2 ^ 52 + q + 1) =
      2 ^ roundShift m t * q + 2 ^ roundShift m t := by
    rw [add_assoc, scaledMag_significand hq (he.imp_right fun h => by omega) (by omega), hsh,
      Nat.succ_mul, mul_comm]
  split
  case isTrue hup =>
    rw [min_eq_left (by omega), ← add_assoc]
    exact nearestBits_of_upper (by omega) (by omega) (by omega) (by omega)
  case isFalse hdown =>
    rw [min_eq_left (by omega)]
    exact nearestBits_of_lower (by omega) (by omega) (by omega) (by omega)

/-- `2^1024 - 2^970` is the middle between the greatest finite magnitude and `2^1024`. -/
theorem overflowThreshold_eq (t : Nat) :
    (2 ^ 1024 - 2 ^ 970) * 2 ^ (unitExp + t) = (2 ^ 54 - 1) * 2 ^ (2044 + t) := by
  have h970 : (2 : Nat) ^ 1024 - 2 ^ 970 = (2 ^ 54 - 1) * 2 ^ 970 := by
    rw [Nat.sub_mul, ← pow_add, one_mul]
  rw [h970, mul_assoc, ← pow_add, unitExp, ← add_assoc]

/-- The infinity is the nearest exactly from the middle between the greatest finite magnitude and
`2^1024` on. -/
theorem nearestBits_inf_iff {m t b : Nat} (h : NearestBits m t b) :
    b = 2047 * 2 ^ 52 ↔ (2 ^ 1024 - 2 ^ 970) * 2 ^ (unitExp + t) ≤ m := by
  have hinf := scaledMag_inf t
  have hmax := scaledMag_max t
  rw [overflowThreshold_eq]
  have h2046 : 2 ^ (2046 + t) = 2 ^ 2 * 2 ^ (2044 + t) := by rw [← pow_add]; congr 1; omega
  have h2045 : 2 ^ (2045 + t) = 2 ^ 1 * 2 ^ (2044 + t) := by rw [← pow_add]; congr 1; omega
  rw [h2046] at hinf
  rw [h2045] at hmax
  obtain ⟨hle, hnear⟩ := h
  constructor
  · rintro rfl
    have := (hnear (2047 * 2 ^ 52 - 1) (Nat.sub_le _ _)).1
    unfold gap at this
    omega
  · intro hm
    by_contra hne
    have hbelow : b = 2047 * 2 ^ 52 - 1 ∨ scaledMag t b < scaledMag t (2047 * 2 ^ 52 - 1) :=
      (Nat.eq_or_lt_of_le (show b ≤ 2047 * 2 ^ 52 - 1 by omega)).imp_right fun hlt =>
        scaledMag_strictMonoOn t (Set.mem_Iic.mpr hle) (Set.mem_Iic.mpr (Nat.sub_le _ _)) hlt
    obtain ⟨hinfNear, htie⟩ := hnear _ le_rfl
    unfold gap at hinfNear htie
    rcases hbelow with rfl | hlt <;> omega

/-- A zero is the nearest exactly up to half the smallest magnitude. -/
theorem nearestBits_zero_iff {m t b : Nat} (h : NearestBits m t b) : b = 0 ↔ 2 * m ≤ 2 ^ t := by
  have hone : scaledMag t 1 = 2 ^ t := by simp [scaledMag]
  have hpos := Nat.two_pow_pos t
  have hzero := scaledMag_zero t
  obtain ⟨hle, hnear⟩ := h
  constructor
  · rintro rfl
    have := (hnear 1 (by norm_num)).1
    unfold gap at this
    omega
  · intro hm
    by_contra hne
    have habove : b = 1 ∨ scaledMag t 1 < scaledMag t b :=
      (Nat.eq_or_lt_of_le (Nat.pos_of_ne_zero hne)).imp Eq.symm fun hlt =>
        scaledMag_strictMonoOn t (Set.mem_Iic.mpr (by norm_num)) (Set.mem_Iic.mpr hle) hlt
    obtain ⟨hzeroNear, htie⟩ := hnear 0 (Nat.zero_le _)
    unfold gap at hzeroNear htie
    rcases habove with rfl | hlt <;> omega

/-! #### Rounding on the reals (R110) -/

theorem smag_eq (x : F64) :
    smag x = if signBit x then -(magOfBits (magBits x) : Int) else magOfBits (magBits x) := by
  rw [smag, mag_eq_magOfBits]

theorem natAbs_smag (x : F64) : (smag x).natAbs = magOfBits (magBits x) := by
  have h := smag_eq x
  split at h <;> omega

theorem val_cast (x : F64) : ((val x : ℚ) : ℝ) = (smag x : ℝ) / 2 ^ unitExp := by
  simp [val]

theorem notional_eq (x : F64) : notional x = (smag x : ℝ) / 2 ^ unitExp := val_cast x

/-- The distance from a word to an exact number, counted in the number's units. -/
theorem abs_sub_notional (r : Int) (t : Nat) (z : F64) :
    |(r : ℝ) / 2 ^ (unitExp + t) - notional z| =
      ((r - smag z * 2 ^ t).natAbs : ℝ) / 2 ^ (unitExp + t) := by
  have hscale : (r : ℝ) / 2 ^ (unitExp + t) - notional z =
      ((r - smag z * 2 ^ t : Int) : ℝ) / 2 ^ (unitExp + t) := by
    rw [notional_eq, pow_add]
    push_cast
    field_simp
  rw [hscale, abs_div, abs_of_pos (show (0 : ℝ) < 2 ^ (unitExp + t) by positivity),
    Nat.cast_natAbs, Int.cast_abs]

theorem smag_mul_two_pow (z : F64) (t : Nat) :
    smag z * 2 ^ t =
      if signBit z then -(scaledMag t (magBits z) : Int) else scaledMag t (magBits z) := by
  rw [smag_eq, scaledMag]
  split <;> push_cast <;> ring

/-- To a word of its own sign a number is as far as its magnitude is from the word's. -/
theorem dist_of_sign_eq {r : Int} {z : F64} (t : Nat) (h : signBit z = decide (r < 0)) :
    (r - smag z * 2 ^ t).natAbs = gap r.natAbs t (magBits z) := by
  rw [smag_mul_two_pow, h, gap]
  simp only [decide_eq_true_eq]
  split <;> omega

/-- A word of the other sign lies beyond zero. -/
theorem dist_of_sign_ne {r : Int} {z : F64} (t : Nat) (h : signBit z ≠ decide (r < 0)) :
    (r - smag z * 2 ^ t).natAbs = gap r.natAbs t 0 + scaledMag t (magBits z) := by
  rw [smag_mul_two_pow, Bool.eq_not_of_ne h, gap, scaledMag_zero]
  simp only [Bool.not_eq_true', decide_eq_false_iff_not]
  split <;> omega

/-- The word of the number's sign and the nearest bits is nearer than every other, and even where
another is as near. -/
theorem nearest_word {r : Int} {t b : Nat} (h : NearestBits r.natAbs t b) {z : F64}
    (hz : isNaN z = false) :
    gap r.natAbs t b ≤ (r - smag z * 2 ^ t).natAbs ∧
      (gap r.natAbs t b = (r - smag z * 2 ^ t).natAbs →
        smag z ≠ smag (packSign (decide (r < 0)) b) → b % 2 = 0) := by
  rw [isNaN_eq_false_iff] at hz
  have hb : b < 2 ^ 63 := h.1.trans_lt (by norm_num)
  have hy := smag_eq (packSign (decide (r < 0)) b)
  rw [signBit_packSign _ _ hb, magBits_packSign _ hb] at hy
  by_cases hsign : signBit z = decide (r < 0)
  · rw [dist_of_sign_eq t hsign]
    obtain ⟨hle, heven⟩ := h.2 _ hz
    refine ⟨hle, fun heq hne => heven heq ?_⟩
    rintro rfl
    exact hne (by rw [hy, smag_eq, hsign])
  · rw [dist_of_sign_ne t hsign]
    obtain ⟨hle, heven⟩ := h.2 0 (Nat.zero_le _)
    refine ⟨by omega, fun heq hne => heven (by omega) ?_⟩
    rintro rfl
    have hzero : magOfBits (magBits z) = 0 :=
      (Nat.mul_eq_zero.mp (show scaledMag t (magBits z) = 0 by omega)).resolve_right
        (Nat.two_pow_pos t).ne'
    exact hne (by simp [hy, smag_eq z, hzero])

theorem roundsTo_round64 (r : Int) (t : Nat) (sz : Bool) :
    RoundsTo ((r : ℝ) / 2 ^ (unitExp + t)) sz (round64 r t sz) := by
  have hpos : (0 : ℝ) < 2 ^ (unitExp + t) := by positivity
  by_cases hr : r = 0
  · exact .inl ⟨by simp [hr], by rw [round64, if_pos hr]⟩
  have hnear := roundMag_nearest (Int.natAbs_ne_zero.mpr hr) t
  rw [round64, if_neg hr]
  generalize roundMag r.natAbs t = b at *
  have hb : b < 2 ^ 63 := hnear.1.trans_lt (by norm_num)
  have hsign := signBit_packSign (decide (r < 0)) b hb
  have hbits := magBits_packSign (decide (r < 0)) hb
  refine .inr ⟨by simp [hr], ?_, ?_, fun z hz => ?_⟩
  · rw [isNaN_eq_false_iff, hbits]
    exact hnear.1
  · rw [hsign, decide_eq_true_eq, div_lt_iff₀ hpos, zero_mul, Int.cast_lt_zero]
  · obtain ⟨hle, heven⟩ := nearest_word hnear hz
    rw [abs_sub_notional, abs_sub_notional, dist_of_sign_eq t hsign, hbits,
      div_le_div_iff_of_pos_right hpos, div_left_inj' hpos.ne', fracField_mod_two, hbits]
    refine ⟨by exact_mod_cast hle, fun heq hne => heven (by exact_mod_cast heq) fun hval => hne ?_⟩
    rw [notional_eq, notional_eq, hval]

/-- Bits 62:0 of a rounded number. -/
theorem magBits_round64 {r : Int} (hr : r ≠ 0) (t : Nat) (sz : Bool) :
    magBits (round64 r t sz) = roundMag r.natAbs t := by
  have hle := (roundMag_nearest (Int.natAbs_ne_zero.mpr hr) t).1
  rw [round64, if_neg hr, magBits_packSign _ (hle.trans_lt (by norm_num))]

/-- Settles O6: the bits `roundMag` makes are the nearest of the number's sign, and where the infinity
and the zeros begin follows from that. -/
theorem roundingIsNearestTiesToEven : Obligations.RoundingIsNearestTiesToEven := by
  intro r t sz
  refine ⟨roundsTo_round64 r t sz, ?_⟩
  by_cases hr : r = 0
  · subst hr
    have hzero : isZero (round64 0 t sz) = true := isZero_zeroOf sz
    have hthreshold : 0 < (2 ^ 1024 - 2 ^ 970) * 2 ^ (unitExp + t) := by
      rw [overflowThreshold_eq]
      exact Nat.mul_pos (by norm_num) (Nat.two_pow_pos _)
    rw [not_isInf_of_isFinite (isFinite_of_isZero hzero), hzero]
    exact ⟨iff_of_false Bool.false_ne_true hthreshold.not_ge, iff_of_true rfl (Nat.zero_le _)⟩
  · have hnear := roundMag_nearest (Int.natAbs_ne_zero.mpr hr) t
    rw [isInf_iff, isZero_iff, magBits_round64 hr]
    exact ⟨nearestBits_inf_iff hnear, nearestBits_zero_iff hnear⟩

end Sys2Proof.Proofs

/-! ### Proofs for the family 40_numerics: values, the primitives and the scaling by powers of two. -/

namespace Sys2Proof.Proofs

open Sys2Proof.Machine
open Sys2Proof.Laws.ConformingRotator (val_ONE)

/-! #### Values -/

theorem magOfBits_eq_zero_iff {b : Nat} (h : b ≤ 2047 * 2 ^ 52) : magOfBits b = 0 ↔ b = 0 := by
  have h0 := magOfBits_strictMonoOn.injOn.eq_iff (Set.mem_Iic.mpr h) (Set.mem_Iic.mpr (Nat.zero_le _))
  rwa [magOfBits_zero] at h0

theorem smag_eq_zero_iff {x : F64} (h : isNaN x = false) : smag x = 0 ↔ isZero x = true := by
  rw [← Int.natAbs_eq_zero, natAbs_smag, magOfBits_eq_zero_iff ((isNaN_eq_false_iff x).mp h),
    isZero_iff]

theorem two_pow_unitExp_pos : (0 : ℚ) < 2 ^ unitExp := by positivity

theorem val_eq_zero_iff {x : F64} (h : isNaN x = false) : val x = 0 ↔ isZero x = true := by
  rw [← smag_eq_zero_iff h, val, div_eq_zero_iff, or_iff_left two_pow_unitExp_pos.ne',
    Int.cast_eq_zero]

theorem val_of_isZero {x : F64} (h : isZero x = true) : val x = 0 :=
  (val_eq_zero_iff (not_isNaN_of_isFinite (isFinite_of_isZero h))).mpr h

@[simp] theorem val_zeroOf (s : Bool) : val (zeroOf s) = 0 := val_of_isZero (isZero_zeroOf s)

theorem abs_val (x : F64) : |val x| = magOfBits (magBits x) / 2 ^ unitExp := by
  rw [val, abs_div, abs_of_pos two_pow_unitExp_pos, ← natAbs_smag, Nat.cast_natAbs, Int.cast_abs]

theorem val_eq_sign_mul_abs (x : F64) : val x = (if signBit x then -1 else 1) * |val x| := by
  rw [abs_val, val, smag_eq]
  split <;> push_cast <;> ring

theorem abs_val_le_iff {x z : F64} (hx : isNaN x = false) (hz : isNaN z = false) :
    |val x| ≤ |val z| ↔ magBits x ≤ magBits z := by
  rw [isNaN_eq_false_iff] at hx hz
  rw [abs_val, abs_val, div_le_div_iff_of_pos_right two_pow_unitExp_pos, Nat.cast_le,
    magOfBits_strictMonoOn.le_iff_le (Set.mem_Iic.mpr hx) (Set.mem_Iic.mpr hz)]

theorem signBit_iff_val_neg {x : F64} (h0 : val x ≠ 0) :
    signBit x = true ↔ val x < 0 := by
  rw [val_eq_sign_mul_abs]
  cases signBit x
  · exact iff_of_false Bool.false_ne_true (by simp)
  · exact iff_of_true rfl (by simpa using h0)

/-- Words that are no NaN are the same word when they have the same value, zeros apart. -/
theorem eq_of_val_eq {x z : F64} (hx : isNaN x = false) (hz : isNaN z = false)
    (h : val x = val z) (h0 : val z ≠ 0) : x = z := by
  have hsign : signBit x = signBit z := by
    rw [Bool.eq_iff_iff, signBit_iff_val_neg (h ▸ h0), signBit_iff_val_neg h0, h]
  have hbits : magBits x = magBits z :=
    le_antisymm ((abs_val_le_iff hx hz).mp (by rw [h])) ((abs_val_le_iff hz hx).mp (by rw [h]))
  rw [← packSign_magBits x, ← packSign_magBits z, hsign, hbits]

/-! #### Negation (R120) -/

@[simp] theorem signBit_fneg (x : F64) : signBit (fneg x) = !signBit x := by
  rw [signBit, fneg, BitVec.msb_xor]
  exact Bool.xor_true _

@[simp] theorem expField_fneg (x : F64) : expField (fneg x) = expField x := by
  rw [expField, fneg, BitVec.toNat_xor, Nat.xor_div_two_pow, Nat.xor_mod_two_pow]
  exact Nat.xor_zero _

@[simp] theorem fracField_fneg (x : F64) : fracField (fneg x) = fracField x := by
  rw [fracField, fneg, BitVec.toNat_xor, Nat.xor_mod_two_pow]
  exact Nat.xor_zero _

@[simp] theorem isNaN_fneg (x : F64) : isNaN (fneg x) = isNaN x := by simp [isNaN]
@[simp] theorem isInf_fneg (x : F64) : isInf (fneg x) = isInf x := by simp [isInf]
@[simp] theorem isZero_fneg (x : F64) : isZero (fneg x) = isZero x := by simp [isZero]
@[simp] theorem isFinite_fneg (x : F64) : isFinite (fneg x) = isFinite x := by simp [isFinite]

@[simp] theorem smag_fneg (x : F64) : smag (fneg x) = -smag x := by
  have hmag : mag (fneg x) = mag x := by simp [mag]
  rw [smag, smag, hmag, signBit_fneg]
  cases signBit x <;> simp

@[simp] theorem val_fneg (x : F64) : val (fneg x) = -val x := by
  rw [val, val, smag_fneg, Int.cast_neg, neg_div]

@[simp] theorem fneg_infOf (s : Bool) : fneg (infOf s) = infOf (!s) := by cases s <;> rfl
@[simp] theorem fneg_zeroOf (s : Bool) : fneg (zeroOf s) = zeroOf (!s) := by cases s <;> rfl

@[simp] theorem fneg_fneg (x : F64) : fneg (fneg x) = x := by
  rw [fneg, fneg, BitVec.xor_assoc, BitVec.xor_self, BitVec.xor_zero]

/-! #### What follows from rounding -/

/-- A value that a word has is rounded to that word. -/
theorem eq_of_roundsTo {q : ℚ} {sz : Bool} {y z : F64} (h : RoundsTo (q : ℝ) sz y)
    (hz : isNaN z = false) (hval : q = val z) (h0 : q ≠ 0) : y = z := by
  obtain ⟨hr, -⟩ | ⟨-, hy, -, hnear⟩ := h
  · exact absurd (Rat.cast_eq_zero.mp hr) h0
  · have hdist := (hnear z hz).1
    rw [hval, show ((val z : ℚ) : ℝ) - notional z = 0 from sub_self _, abs_zero] at hdist
    have heq : val z = val y :=
      Rat.cast_injective (sub_eq_zero.mp (abs_eq_zero.mp (le_antisymm hdist (abs_nonneg _))))
    exact (eq_of_val_eq hz hy heq (heq ▸ hval ▸ h0)).symm

/-- What is as near to `x` as both `v` and `-v` are is no further from zero than `v`. -/
theorem abs_le_of_dist_le {x y v : ℚ} (hpos : |x - y| ≤ |x - v|) (hneg : |x - y| ≤ |x - -v|)
    (hx : |x| ≤ |v|) : |y| ≤ |v| := by
  grind

/-- Rounding does not pass a bound that is the value of a word. -/
theorem finite_of_roundsTo {q : ℚ} {sz : Bool} {y z : F64} (h : RoundsTo (q : ℝ) sz y)
    (hz : isFinite z = true) (hbound : |q| ≤ |val z|) :
    isFinite y = true ∧ |val y| ≤ |val z| := by
  obtain ⟨-, rfl⟩ | ⟨-, hy, -, hnear⟩ := h
  · exact ⟨isFinite_of_isZero (isZero_zeroOf sz), by simp⟩
  · have hzn := not_isNaN_of_isFinite hz
    have hpos : |(q : ℝ) - (val y : ℚ)| ≤ |(q : ℝ) - (val z : ℚ)| := (hnear z hzn).1
    have hneg : |(q : ℝ) - (val y : ℚ)| ≤ |(q : ℝ) - (val (fneg z) : ℚ)| :=
      (hnear (fneg z) (by rw [isNaN_fneg, hzn])).1
    rw [val_fneg] at hneg
    have hle : |val y| ≤ |val z| := abs_le_of_dist_le (by exact_mod_cast hpos)
      (by exact_mod_cast hneg) hbound
    have hbits := (abs_val_le_iff hy hzn).mp hle
    rw [isFinite_iff] at hz ⊢
    exact ⟨hbits.trans_lt hz, hle⟩

/-! #### `fadd` (R113) -/

theorem isInf_or_isFinite {x : F64} (h : isNaN x = false) : isInf x = true ∨ isFinite x = true := by
  cases hi : isInf x
  · exact .inr ((isFinite_iff_not_isNaN_not_isInf x).mpr ⟨h, hi⟩)
  · exact .inl rfl

theorem fadd_of_isNaN {a b : F64} (h : isNaN a = true ∨ isNaN b = true) : fadd a b = CNAN := by
  rw [fadd, if_pos (by simpa using h)]

theorem fadd_infOf_infOf (sa sb : Bool) :
    fadd (infOf sa) (infOf sb) = if sa = sb then infOf sa else CNAN := by
  cases sa <;> cases sb <;> rfl

theorem fadd_zeroOf_zeroOf (sa sb : Bool) :
    fadd (zeroOf sa) (zeroOf sb) = if sa = sb then zeroOf sa else PZERO := by
  cases sa <;> cases sb <;> rfl

theorem fadd_of_isInf_of_isFinite {a b : F64} (ha : isInf a = true) (hb : isFinite b = true) :
    fadd a b = a ∧ fadd b a = a := by
  simp [fadd, not_isNaN_of_isInf ha, not_isNaN_of_isFinite hb, not_isInf_of_isFinite hb, ha]

/-- A sum of two finite words of which one is no zero is the rounded sum. -/
theorem fadd_of_isFinite {a b : F64} (ha : isFinite a = true) (hb : isFinite b = true)
    (hz : isZero a = false ∨ isZero b = false) :
    fadd a b = if smag a + smag b = 0 then PZERO else round64 (smag a + smag b) 0 false := by
  have hzeros : (isZero a && isZero b) = false := by simpa [imp_iff_not_or] using hz
  simp [fadd, not_isNaN_of_isFinite ha, not_isNaN_of_isFinite hb, not_isInf_of_isFinite ha,
    not_isInf_of_isFinite hb, hzeros]

theorem fadd_comm (a b : F64) : fadd a b = fadd b a := by
  by_cases hnan : isNaN a = true ∨ isNaN b = true
  · rw [fadd_of_isNaN hnan, fadd_of_isNaN hnan.symm]
  obtain ⟨hna, hnb⟩ : isNaN a = false ∧ isNaN b = false := by simpa using hnan
  rcases isInf_or_isFinite hna with ha | ha <;> rcases isInf_or_isFinite hnb with hb | hb
  · rw [eq_infOf_of_isInf ha, eq_infOf_of_isInf hb]
    cases signBit a <;> cases signBit b <;> rfl
  · rw [(fadd_of_isInf_of_isFinite ha hb).1, (fadd_of_isInf_of_isFinite ha hb).2]
  · rw [(fadd_of_isInf_of_isFinite hb ha).1, (fadd_of_isInf_of_isFinite hb ha).2]
  by_cases hz : isZero a = true ∧ isZero b = true
  · rw [eq_zeroOf_of_isZero hz.1, eq_zeroOf_of_isZero hz.2]
    cases signBit a <;> cases signBit b <;> rfl
  · have hz' : isZero a = false ∨ isZero b = false := by simpa [imp_iff_not_or] using hz
    rw [fadd_of_isFinite ha hb hz', fadd_of_isFinite hb ha hz'.symm, add_comm]

/-- An infinity added to a word that is no NaN and no opposite infinity. -/
theorem fadd_of_isInf {a b : F64} (ha : isInf a = true) (hb : isNaN b = false)
    (hsign : isInf b = true → signBit b = signBit a) : fadd a b = a := by
  rcases isInf_or_isFinite hb with hi | hf
  · rw [eq_infOf_of_isInf ha, eq_infOf_of_isInf hi, hsign hi, fadd_infOf_infOf, if_pos rfl]
  · exact (fadd_of_isInf_of_isFinite ha hf).1

theorem smag_add_eq_zero_iff (a b : F64) : smag a + smag b = 0 ↔ val a + val b = 0 := by
  rw [val, val, ← add_div, div_eq_zero_iff, or_iff_left two_pow_unitExp_pos.ne', ← Int.cast_add,
    Int.cast_eq_zero]

theorem fadd_of_val_add_eq_zero {a b : F64} (ha : isFinite a = true) (hb : isFinite b = true)
    (hz : isZero a = false) (hsum : val a + val b = 0) : fadd a b = PZERO := by
  rw [fadd_of_isFinite ha hb (.inl hz), if_pos ((smag_add_eq_zero_iff a b).mpr hsum)]

/-- A zero sum is a zero. -/
theorem fadd_eq_zeroOf {a b : F64} (ha : isFinite a = true) (hb : isFinite b = true)
    (hsum : val a + val b = 0) : ∃ s, fadd a b = zeroOf s := by
  cases hz : isZero a
  · exact ⟨false, fadd_of_val_add_eq_zero ha hb hz hsum⟩
  · have hval : val b = 0 := by
      rwa [val_of_isZero hz, zero_add] at hsum
    have hzb := (val_eq_zero_iff (not_isNaN_of_isFinite hb)).mp hval
    rw [eq_zeroOf_of_isZero hz, eq_zeroOf_of_isZero hzb, fadd_zeroOf_zeroOf]
    split
    · exact ⟨_, rfl⟩
    · exact ⟨false, rfl⟩

theorem fadd_of_val_add_ne_zero {a b : F64} (ha : isFinite a = true) (hb : isFinite b = true)
    (hsum : val a + val b ≠ 0) : fadd a b = round64 (smag a + smag b) 0 false := by
  have hz : isZero a = false ∨ isZero b = false := by
    rw [Bool.eq_false_iff, Bool.eq_false_iff, Ne, Ne, ← val_eq_zero_iff (not_isNaN_of_isFinite ha),
      ← val_eq_zero_iff (not_isNaN_of_isFinite hb), ← not_and_or]
    rintro ⟨h1, h2⟩
    exact hsum (by rw [h1, h2, add_zero])
  rw [fadd_of_isFinite ha hb hz, if_neg (mt (smag_add_eq_zero_iff a b).mp hsum)]

theorem roundsTo_fadd {a b : F64} (ha : isFinite a = true) (hb : isFinite b = true)
    (hsum : val a + val b ≠ 0) : RoundsTo ((val a + val b : ℚ) : ℝ) false (fadd a b) := by
  rw [fadd_of_val_add_ne_zero ha hb hsum, Rat.cast_add, val_cast, val_cast, ← add_div,
    ← Int.cast_add]
  exact roundsTo_round64 _ 0 _

theorem natAbs_smag_add_lt {a b : F64} (hsmall : |val a + val b| < 1 / 2 ^ 1022) :
    (smag a + smag b).natAbs < 2 ^ 52 := by
  have hunit : (2 : ℚ) ^ unitExp = 2 ^ 52 * 2 ^ 1022 := pow_add 2 52 1022
  rw [val, val, ← add_div, abs_div, abs_of_pos two_pow_unitExp_pos, hunit, div_lt_div_iff₀
    (by positivity) (by positivity), one_mul, mul_lt_mul_iff_left₀ (by positivity), ← Int.cast_add,
    ← Int.cast_abs, ← Nat.cast_natAbs] at hsmall
  exact_mod_cast hsmall

/-- Below the normal range a sum is a whole number of units that fits the fraction. -/
theorem val_fadd_of_subnormal {a b : F64} (ha : isFinite a = true) (hb : isFinite b = true)
    (hsmall : |val a + val b| < 1 / 2 ^ 1022) : val (fadd a b) = val a + val b := by
  by_cases hsum : val a + val b = 0
  · obtain ⟨s, hs⟩ := fadd_eq_zeroOf ha hb hsum
    rw [hs, hsum, val_zeroOf]
  · have hlt := natAbs_smag_add_lt hsmall
    have hne := mt (smag_add_eq_zero_iff a b).mp hsum
    have hlog : Nat.log2 (smag a + smag b).natAbs < 52 :=
      (Nat.log2_lt (Int.natAbs_ne_zero.mpr hne)).mpr hlt
    obtain ⟨-, hexact⟩ := smag_round64_exact (smag a + smag b) (smag a + smag b).natAbs 0
      (by simp) (by omega) (by simp only [pow_zero, mul_one]; omega)
    rw [fadd_of_val_add_ne_zero ha hb hsum, val, hexact, Int.cast_add, add_div]
    rfl

/-- Settles O7, row by row of the table. -/
theorem additionFollowsItsTable : Obligations.AdditionFollowsItsTable :=
  ⟨fun _ _ => fadd_of_isNaN,
    fun sa => by rw [fadd_infOf_infOf, if_neg (by simp)],
    fun _ _ => fadd_of_isInf,
    fun a b hb ha hsign => (fadd_comm a b).trans (fadd_of_isInf hb ha hsign),
    fadd_zeroOf_zeroOf,
    fun _ _ => fadd_of_val_add_eq_zero,
    fun _ _ => roundsTo_fadd,
    fun _ _ => val_fadd_of_subnormal⟩

/-! #### `fsub` (R115) -/

theorem fsub_self {x : F64} (h : isFinite x = true) : fsub x x = PZERO := by
  cases hz : isZero x
  · exact fadd_of_val_add_eq_zero h (by rwa [isFinite_fneg]) hz (by rw [val_fneg, add_neg_cancel])
  · rw [eq_zeroOf_of_isZero hz, fsub, fneg_zeroOf, fadd_zeroOf_zeroOf, if_neg (by simp)]

theorem fsub_of_isInf {a b : F64} (ha : isInf a = true) (hb : isNaN b = false)
    (hsign : isInf b = true → signBit b ≠ signBit a) : fsub a b = a :=
  fadd_of_isInf ha (by rwa [isNaN_fneg]) fun hi => by
    rw [signBit_fneg, Bool.not_eq_eq_eq_not]
    exact Bool.eq_not_of_ne (hsign (by rwa [isInf_fneg] at hi))

theorem fsub_infOf {a : F64} (ha : isFinite a = true) (sb : Bool) :
    fsub a (infOf sb) = infOf (!sb) := by
  rw [fsub, fneg_infOf]
  exact (fadd_of_isInf_of_isFinite (isInf_infOf _) ha).2

theorem roundsTo_fsub {a b : F64} (ha : isFinite a = true) (hb : isFinite b = true)
    (hdiff : val a - val b ≠ 0) : RoundsTo ((val a - val b : ℚ) : ℝ) false (fsub a b) := by
  rw [sub_eq_add_neg, ← val_fneg] at hdiff ⊢
  exact roundsTo_fadd ha (by rwa [isFinite_fneg]) hdiff

/-- Settles O8, from the rows of addition for the negated operand. -/
theorem subtractionAddsTheNegation : Obligations.SubtractionAddsTheNegation :=
  ⟨fun _ _ => rfl,
    fun _ _ h => fadd_of_isNaN (by rwa [isNaN_fneg]),
    fun sa => by rw [fsub, fneg_infOf, fadd_infOf_infOf, if_neg (by simp)],
    fun _ _ => fsub_of_isInf,
    fun _ sb ha => fsub_infOf ha sb,
    by decide,
    fun _ => fsub_self,
    fun _ _ => roundsTo_fsub,
    ONE, PZERO, by decide +kernel⟩

/-! #### `fmul` (R117, R118) -/

theorem mulSign_comm (a b : F64) : mulSign a b = mulSign b a := by simp [mulSign, Bool.xor_comm]

theorem fmul_comm (a b : F64) : fmul a b = fmul b a := by
  have hzeroInf : (isZero a && isInf b || isInf a && isZero b) =
      (isZero b && isInf a || isInf b && isZero a) := by
    rw [Bool.or_comm, Bool.and_comm (isInf a), Bool.and_comm (isZero a)]
  rw [fmul, fmul, hzeroInf, mulSign_comm a b, mul_comm (smag a), Bool.or_comm (isNaN a),
    Bool.or_comm (isInf a), Bool.or_comm (isZero a) (isZero b)]

theorem fmul_of_isNaN {a b : F64} (h : isNaN a = true ∨ isNaN b = true) : fmul a b = CNAN := by
  rw [fmul, if_pos (by simpa using h)]

theorem fmul_of_isZero_of_isInf {a b : F64} (ha : isZero a = true) (hb : isInf b = true) :
    fmul a b = CNAN := by
  simp [fmul, ha, hb]

theorem fmul_of_isInf {a b : F64} (ha : isInf a = true) (hb : isNaN b = false)
    (hz : isZero b = false) : fmul a b = infOf (mulSign a b) := by
  simp [fmul, not_isNaN_of_isInf ha, not_isZero_of_isInf ha, ha, hb, hz]

theorem fmul_of_isZero {a b : F64} (ha : isZero a = true) (hb : isFinite b = true) :
    fmul a b = zeroOf (mulSign a b) := by
  have hfin := isFinite_of_isZero ha
  simp [fmul, not_isNaN_of_isFinite hfin, not_isInf_of_isFinite hfin, not_isNaN_of_isFinite hb,
    not_isInf_of_isFinite hb, ha]

/-- A product of two finite words, no zeros, is the rounded product. -/
theorem fmul_of_isFinite {a b : F64} (ha : isFinite a = true) (hb : isFinite b = true)
    (hza : isZero a = false) (hzb : isZero b = false) :
    fmul a b = round64 (smag a * smag b) unitExp (mulSign a b) := by
  simp [fmul, not_isNaN_of_isFinite ha, not_isNaN_of_isFinite hb, not_isInf_of_isFinite ha,
    not_isInf_of_isFinite hb, hza, hzb]

theorem val_mul_cast (a b : F64) : ((val a * val b : ℚ) : ℝ) =
    ((smag a * smag b : Int) : ℝ) / 2 ^ (unitExp + unitExp) := by
  rw [Rat.cast_mul, val_cast, val_cast, div_mul_div_comm, ← pow_add, Int.cast_mul]

/-- A product of finite words is the rounded product, zeros of the product's sign included. -/
theorem roundsTo_fmul {a b : F64} (ha : isFinite a = true) (hb : isFinite b = true) :
    RoundsTo ((val a * val b : ℚ) : ℝ) (mulSign a b) (fmul a b) := by
  cases hza : isZero a
  · cases hzb : isZero b
    · rw [fmul_of_isFinite ha hb hza hzb, val_mul_cast]
      exact roundsTo_round64 _ _ _
    · refine .inl ⟨by simp [val_of_isZero hzb], ?_⟩
      rw [fmul_comm, fmul_of_isZero hzb ha, mulSign_comm]
  · exact .inl ⟨by simp [val_of_isZero hza], fmul_of_isZero hza hb⟩

theorem signBit_eq_decide {x : F64} (h : val x ≠ 0) : signBit x = decide (val x < 0) :=
  Bool.eq_iff_iff.mpr ((signBit_iff_val_neg h).trans decide_eq_true_iff.symm)

theorem mulSign_eq_decide {a b : F64} (ha : val a ≠ 0) (hb : val b ≠ 0) :
    mulSign a b = decide (val a * val b < 0) := by
  rw [mulSign, signBit_eq_decide ha, signBit_eq_decide hb]
  rcases lt_or_gt_of_ne ha with ha | ha <;> rcases lt_or_gt_of_ne hb with hb | hb <;>
    simp [mul_neg_iff, ha, hb, ha.not_gt, hb.not_gt]

theorem val_ne_zero {x : F64} (h : isFinite x = true) (hz : isZero x = false) : val x ≠ 0 := by
  rw [Ne, val_eq_zero_iff (not_isNaN_of_isFinite h), hz]
  exact Bool.false_ne_true

theorem signBit_fmul {a b : F64} (ha : isFinite a = true) (hb : isFinite b = true)
    (hza : isZero a = false) (hzb : isZero b = false) : signBit (fmul a b) = mulSign a b := by
  have hva := val_ne_zero ha hza
  have hvb := val_ne_zero hb hzb
  obtain ⟨h0, -⟩ | ⟨-, -, hsign, -⟩ := roundsTo_fmul ha hb
  · exact absurd (Rat.cast_eq_zero.mp h0) (mul_ne_zero hva hvb)
  · rw [mulSign_eq_decide hva hvb, Bool.eq_iff_iff, hsign, Rat.cast_lt_zero, decide_eq_true_iff]

/-- Where a word has the exact product for its value, that word is the product. -/
theorem fmul_eq_of_val {a b z : F64} (ha : isFinite a = true) (hb : isFinite b = true)
    (hz : isNaN z = false) (h : val a * val b = val z) (h0 : val z ≠ 0) : fmul a b = z :=
  eq_of_roundsTo (roundsTo_fmul ha hb) hz h (h ▸ h0)

/-- Multiplying by a unit is exact and only the unit's sign tells. -/
theorem fmul_unit {x u : F64} (hx : isNaN x = false) (hu : isFinite u = true)
    (hunit : |val u| = 1) : fmul x u = if signBit u then fneg x else x := by
  have hu0 : val u ≠ 0 := by
    rw [← abs_pos, hunit]
    exact one_pos
  have huz : isZero u = false := Bool.eq_false_iff.mpr fun h => hu0 (val_of_isZero h)
  have hval : val (if signBit u then fneg x else x) = val x * val u := by
    rw [val_eq_sign_mul_abs u, hunit]
    split <;> simp
  have hsign : signBit (if signBit u then fneg x else x) = mulSign x u := by
    rw [mulSign]
    cases signBit u <;> simp
  have hclass : isNaN (if signBit u then fneg x else x) = isNaN x ∧
      isInf (if signBit u then fneg x else x) = isInf x ∧
      isZero (if signBit u then fneg x else x) = isZero x := by
    split <;> simp
  generalize (if signBit u then fneg x else x) = z at *
  obtain ⟨hzn, hzi, hzz⟩ := hclass
  rcases isInf_or_isFinite hx with hi | hf
  · rw [fmul_of_isInf hi (not_isNaN_of_isFinite hu) huz, ← hsign, ← eq_infOf_of_isInf (hzi.trans hi)]
  cases hz : isZero x
  · have hz0 : val z ≠ 0 := hval ▸ mul_ne_zero (val_ne_zero hf hz) hu0
    exact fmul_eq_of_val hf hu (hzn.trans hx) hval.symm hz0
  · rw [fmul_of_isZero hz hu, ← hsign, ← eq_zeroOf_of_isZero (hzz.trans hz)]

theorem fmul_ONE {x : F64} (h : isNaN x = false) : fmul x ONE = x :=
  fmul_unit h (by decide) (by rw [val_ONE, abs_one])

theorem fmul_fneg_ONE {x : F64} (h : isNaN x = false) : fmul x (fneg ONE) = fneg x :=
  fmul_unit h (by decide) (by rw [val_fneg, val_ONE, abs_neg, abs_one])

/-- Settles O9, row by row of the table; by a unit the exact product is the value of a word. -/
theorem multiplicationFollowsItsTable : Obligations.MultiplicationFollowsItsTable :=
  ⟨fun _ _ => fmul_of_isNaN,
    fun a b ha hb => ⟨fmul_of_isZero_of_isInf ha hb,
      (fmul_comm b a).trans (fmul_of_isZero_of_isInf ha hb)⟩,
    fun a b ha hb hz => ⟨fmul_of_isInf ha hb hz, (fmul_comm b a).trans (fmul_of_isInf ha hb hz)⟩,
    fun a b ha hb => ⟨fmul_of_isZero ha hb, (fmul_comm b a).trans (fmul_of_isZero ha hb)⟩,
    fun _ _ ha hb hza hzb => ⟨roundsTo_fmul ha hb, signBit_fmul ha hb hza hzb⟩,
    fmul_comm,
    fun _ h => ⟨fmul_ONE h, fmul_fneg_ONE h⟩,
    fun _ h => fmul_of_isNaN (.inl h)⟩

/-- Settles O10: the words that refute associativity and distribution are `1` and `2^-53`, which is lost
twice but not once doubled, and `2^1023`, which overflows when doubled before it is halved or
cancelled. -/
theorem additionCommutesButDoesNotAssociate : Obligations.AdditionCommutesButDoesNotAssociate :=
  ⟨fadd_comm,
    ⟨ONE, 0x3CA0000000000000, 0x3CA0000000000000, by decide +kernel⟩,
    ⟨0x7FE0000000000000, 0x4000000000000000, 0x3FE0000000000000, by decide +kernel⟩,
    ⟨0x4000000000000000, 0x7FE0000000000000, 0xFFE0000000000000, by decide +kernel⟩⟩

/-! #### Scaling by powers of two (R122, R123) -/

theorem val_packSign (s : Bool) {b : Nat} (h : b < 2 ^ 63) :
    val (packSign s b) = (if s then -1 else 1) * (magOfBits b / 2 ^ unitExp) := by
  rw [val_eq_sign_mul_abs, abs_val, signBit_packSign s b h, magBits_packSign s h]

/-- `k` more in the exponent field of a normal word multiplies its value by `2^k`. -/
theorem val_packSign_add_exponent (s : Bool) {b k : Nat} (hnormal : 2 ^ 52 ≤ b)
    (h : b + k * 2 ^ 52 ≤ 2047 * 2 ^ 52) :
    val (packSign s (b + k * 2 ^ 52)) = val (packSign s b) * 2 ^ k := by
  rw [val_packSign s (h.trans_lt (by norm_num)), val_packSign s (by omega),
    magOfBits_add_exponent hnormal h]
  push_cast
  ring

theorem pow2_neg_eq {p : Nat} (hp : p ≤ 16) :
    pow2 (-(p : Int)) = packSign false ((1022 - p) * 2 ^ 52 + 2 ^ 52) := by
  have hexp : (1023 + -(p : Int)).toNat % 2 ^ 11 = 1022 - p + 1 := by omega
  rw [pow2, packSign, hexp, Nat.add_mul, one_mul, if_neg Bool.false_ne_true, zero_add]

theorem pow2_neg_isFinite {p : Nat} (hp : p ≤ 16) : isFinite (pow2 (-(p : Int))) = true := by
  rw [pow2_neg_eq hp, isFinite_iff, magBits_packSign _ (by omega)]
  omega

theorem signBit_pow2_neg {p : Nat} (hp : p ≤ 16) : signBit (pow2 (-(p : Int))) = false := by
  rw [pow2_neg_eq hp, signBit_packSign _ _ (by omega)]

theorem val_pow2_neg {p : Nat} (hp : p ≤ 16) : val (pow2 (-(p : Int))) = 1 / 2 ^ p := by
  have hunit : 52 + (1022 - p) + p = unitExp := by
    rw [unitExp]
    omega
  rw [pow2_neg_eq hp, val_packSign _ (by omega),
    magOfBits_significand (by norm_num) (.inr le_rfl) (by omega), ← pow_add, ← hunit,
    pow_add 2 (52 + (1022 - p)) p]
  simp only [Bool.false_eq_true, ↓reduceIte, one_mul, Nat.cast_pow, Nat.cast_ofNat]
  field_simp

theorem roundsTo_scale {x : F64} {p : Nat} (hx : isFinite x = true) (hp : p ≤ 16) :
    RoundsTo ((val x / 2 ^ p : ℚ) : ℝ) (signBit x) (fmul x (pow2 (-(p : Int)))) := by
  have h := roundsTo_fmul hx (pow2_neg_isFinite hp)
  rwa [val_pow2_neg hp, mul_one_div, mulSign, signBit_pow2_neg hp, Bool.bne_false] at h

/-- A word that stays normal when `p` is taken from its exponent field. -/
theorem le_magBits_of_le_abs_val {x : F64} {p : Nat} (hx : isFinite x = true) (hp : p ≤ 16)
    (h : 2 ^ p / 2 ^ 1022 ≤ |val x|) : p * 2 ^ 52 + 2 ^ 52 ≤ magBits x := by
  have hlt := (isFinite_iff x).mp hx
  have hmag : magOfBits (p * 2 ^ 52 + 2 ^ 52) = 2 ^ 52 * 2 ^ p :=
    magOfBits_significand (by norm_num) (.inr le_rfl) (by omega)
  have hunit : (2 : ℚ) ^ unitExp = 2 ^ 52 * 2 ^ 1022 := pow_add 2 52 1022
  rw [← magOfBits_strictMonoOn.le_iff_le (Set.mem_Iic.mpr (by omega)) (Set.mem_Iic.mpr hlt.le), hmag]
  rw [abs_val, hunit, div_le_div_iff₀ (by positivity) (by positivity), ← mul_assoc,
    mul_le_mul_iff_left₀ (by positivity), mul_comm] at h
  exact_mod_cast h

theorem val_scale {x : F64} {p : Nat} (hx : isFinite x = true) (hp : p ≤ 16)
    (h : 2 ^ p / 2 ^ 1022 ≤ |val x|) : val (fmul x (pow2 (-(p : Int)))) = val x / 2 ^ p := by
  have hle := le_magBits_of_le_abs_val hx hp h
  have hlt := (isFinite_iff x).mp hx
  have hx0 : val x ≠ 0 := abs_pos.mp (lt_of_lt_of_le (by positivity) h)
  have hback : magBits x - p * 2 ^ 52 + p * 2 ^ 52 = magBits x := by omega
  have hval := val_packSign_add_exponent (signBit x) (b := magBits x - p * 2 ^ 52) (k := p)
    (by omega) (by omega)
  rw [hback, packSign_magBits] at hval
  have hquot : val x / 2 ^ p = val (packSign (signBit x) (magBits x - p * 2 ^ 52)) := by
    rw [hval]
    field_simp
  have hnan : isNaN (packSign (signBit x) (magBits x - p * 2 ^ 52)) = false := by
    rw [isNaN_eq_false_iff, magBits_packSign _ (by omega)]
    omega
  rw [eq_of_roundsTo (roundsTo_scale hx hp) hnan hquot (by positivity), hquot]

/-- Settles O11: the product by `pow2(-p)` is the rounded quotient, and where the exponent field can give
up `p` the quotient is the value of a word. -/
theorem scalingByPowersOfTwoIsDivision : Obligations.ScalingByPowersOfTwoIsDivision :=
  fun _ _ hx hp => ⟨roundsTo_scale hx hp, val_scale hx hp⟩

end Sys2Proof.Proofs

/-! ### Proofs for the family 40_numerics: the integer laws, the complex functions, the rotator and the
twiddle factors. -/

namespace Sys2Proof.Proofs

open Sys2Proof.Machine
open Sys2Proof.Laws.ConformingRotator (val_ONE)

/-! #### Bit reversal (R137) -/

theorem rev_eq_sum (p i : Nat) :
    rev p i = ((List.range p).map fun j => i / 2 ^ j % 2 * 2 ^ (p - 1 - j)).sum := by
  induction p generalizing i with
  | zero => rfl
  | succ p ih =>
    have hterm : ∀ j ∈ List.range p, i / 2 / 2 ^ j % 2 * 2 ^ (p - 1 - j) =
        i / 2 ^ (j + 1) % 2 * 2 ^ (p + 1 - 1 - (j + 1)) := fun j _ => by
      rw [Nat.div_div_eq_div_mul, ← pow_succ', Nat.add_sub_cancel, Nat.sub_sub, Nat.add_comm 1 j]
    rw [rev, ih, List.map_congr_left hterm, List.range_succ_eq_map, List.map_cons, List.sum_cons,
      List.map_map, pow_zero, Nat.div_one]
    rfl

/-- The topmost bit becomes the lowest. -/
theorem rev_top_bit (p b j : Nat) (hb : b < 2) (hj : j < 2 ^ p) :
    rev (p + 1) (b * 2 ^ p + j) = 2 * rev p j + b := by
  induction p generalizing j with
  | zero =>
    simp only [rev, pow_zero] at hj ⊢
    omega
  | succ p ih =>
    have htop : b * 2 ^ (p + 1) = 2 * (b * 2 ^ p) := by rw [pow_succ, ← mul_assoc, mul_comm]
    have hlow : (b * 2 ^ (p + 1) + j) % 2 = j % 2 := by omega
    have hhigh : (b * 2 ^ (p + 1) + j) / 2 = b * 2 ^ p + j / 2 := by omega
    have hhalf : j / 2 < 2 ^ p := by rw [pow_succ] at hj; omega
    rw [rev, hlow, hhigh, ih _ hhalf, rev, pow_succ]
    ring

theorem rev_rev (p i : Nat) (hi : i < 2 ^ p) : rev p (rev p i) = i := by
  induction p generalizing i with
  | zero =>
    simp only [rev, pow_zero] at hi ⊢
    omega
  | succ p ih =>
    have hhalf : i / 2 < 2 ^ p := by rw [pow_succ] at hi; omega
    rw [show rev (p + 1) i = i % 2 * 2 ^ p + rev p (i / 2) from rfl,
      rev_top_bit p _ _ (Nat.mod_lt _ two_pos) (rev_lt p _), ih _ hhalf, Nat.div_add_mod]

/-- An involution of `0 .. 2^p-1` permutes it. -/
theorem map_rev_perm (p : Nat) : ((List.range (2 ^ p)).map (rev p)).Perm (List.range (2 ^ p)) := by
  have hnodup : ((List.range (2 ^ p)).map (rev p)).Nodup :=
    List.nodup_range.map_on fun i hi k hk h => by
      rw [← rev_rev p i (List.mem_range.mp hi), h, rev_rev p k (List.mem_range.mp hk)]
  refine (List.perm_ext_iff_of_nodup hnodup List.nodup_range).mpr fun k => ?_
  simp only [List.mem_map, List.mem_range]
  constructor
  · rintro ⟨i, -, rfl⟩
    exact rev_lt p i
  · exact fun hk => ⟨rev p k, rev_lt p k, rev_rev p k hk⟩

theorem rev_succ_double (p i : Nat) :
    rev (p + 1) (2 * i) = rev p i ∧ rev (p + 1) (2 * i + 1) = 2 ^ p + rev p i := by
  have hodd : (2 * i + 1) % 2 = 1 ∧ (2 * i + 1) / 2 = i := by omega
  refine ⟨?_, ?_⟩
  · rw [rev, Nat.mul_mod_right, Nat.mul_div_cancel_left _ two_pos, zero_mul, zero_add]
  · rw [rev, hodd.1, hodd.2, one_mul]

/-- Settles O12: the laws hold for every `p`, by induction on the bits. -/
theorem bitReversalLaws : Obligations.BitReversalLaws := by
  refine ⟨fun p i _ hi => ⟨rev_eq_sum p i, rev_lt p i, rev_rev p i hi⟩, fun p _ => map_rev_perm p,
    fun p i hp _ _ => ?_, by decide⟩
  obtain ⟨p, rfl⟩ := Nat.exists_eq_add_of_le' hp
  exact rev_succ_double p i

/-! #### Powers of two (R138, R139) -/

theorem ispow2_iff (n : Nat) : ispow2 n = true ↔ ∃ p, n = 2 ^ p := by
  refine ⟨ispow2_eq_true, ?_⟩
  rintro ⟨p, rfl⟩
  have hpos : 1 ≤ 2 ^ p := Nat.two_pow_pos p
  have hand : 2 ^ p &&& (2 ^ p - 1) = 0 := by rw [Nat.and_two_pow_sub_one_eq_mod, Nat.mod_self]
  rw [ispow2, decide_eq_true hpos, decide_eq_true hand, Bool.and_self]

theorem length_evens_odds (x : List Cplx) :
    (evens x).length = (x.length + 1) / 2 ∧ (odds x).length = x.length / 2 := by
  induction x using evens.induct with
  | case1 => exact ⟨rfl, rfl⟩
  | case2 a => exact ⟨by simp [evens], by simp [odds]⟩
  | case3 a b xs ih =>
    simp only [evens, odds, List.length_cons]
    omega

/-- A length is a power of two exactly when its double is. -/
theorem two_mul_eq_two_pow_iff {n : Nat} (h : n ≠ 0) : (∃ p, 2 * n = 2 ^ p) ↔ ∃ p, n = 2 ^ p := by
  constructor
  · rintro ⟨_ | p, hp⟩
    · omega
    · exact ⟨p, by rw [pow_succ] at hp; omega⟩
  · rintro ⟨p, rfl⟩
    exact ⟨p + 1, by rw [pow_succ, mul_comm]⟩

/-- Two elements and more: the recursion takes an even length apart (R165 steps 2 to 4). -/
theorem fftWithin_succ_isSome_iff (d : Nat) {x : List Cplx} (h : 2 ≤ x.length) :
    (fftWithin (d + 1) x).isSome = true ↔ x.length % 2 = 0 ∧
      (fftWithin d (evens x)).isSome = true ∧ (fftWithin d (odds x)).isSome = true := by
  match x with
  | a :: b :: xs =>
    rw [fftWithin]
    split
    case isTrue hodd => exact iff_of_false Bool.false_ne_true fun h => by omega
    case isFalse heven =>
      have hmod : (a :: b :: xs).length % 2 = 0 := by omega
      cases fftWithin d (evens (a :: b :: xs)) <;> cases fftWithin d (odds (a :: b :: xs)) <;>
        simp only [hmod, Option.isSome, Bool.false_eq_true, and_self, and_true, and_false]

theorem fftWithin_isSome_iff (d : Nat) (x : List Cplx) (hne : x ≠ []) (hd : x.length ≤ d) :
    (fftWithin d x).isSome = true ↔ ∃ p, x.length = 2 ^ p := by
  induction d generalizing x with
  | zero => exact absurd (List.length_eq_zero_iff.mp (Nat.le_zero.mp hd)) hne
  | succ d ih =>
    have hpos := List.length_pos_iff.mpr hne
    by_cases hone : x.length = 1
    · obtain ⟨a, rfl⟩ := List.length_eq_one_iff.mp hone
      exact iff_of_true rfl ⟨0, rfl⟩
    rw [fftWithin_succ_isSome_iff d (by omega)]
    rcases Nat.even_or_odd' x.length with ⟨m, hm | hm⟩
    · obtain ⟨hevens, hodds⟩ : (evens x).length = m ∧ (odds x).length = m := by
        have := length_evens_odds x
        omega
      rw [ih (evens x) (List.ne_nil_of_length_pos (by omega)) (by omega),
        ih (odds x) (List.ne_nil_of_length_pos (by omega)) (by omega), hevens, hodds, hm,
        two_mul_eq_two_pow_iff (by omega), Nat.mul_mod_right, and_self, eq_self_iff_true, true_and]
    · refine iff_of_false (fun h => by omega) ?_
      rintro ⟨_ | p, hp⟩
      · exact hone hp
      · rw [pow_succ] at hp
        omega

/-- Settles O13: the recursion succeeds by halving down to one element, which are the powers of two. -/
theorem powersOfTwoAreTheTransformLengths : Obligations.PowersOfTwoAreTheTransformLengths :=
  ⟨ispow2_iff, log2_two_pow, rfl, fun x hx =>
    (fftWithin_isSome_iff x.length x hx le_rfl).trans (ispow2_iff x.length).symm⟩

theorem npow2_of_le_one {l : Word32} (h : l.toInt ≤ 1) : npow2 l = 1 := by
  rw [npow2, if_pos h]

/-- A length above 1 is the same number signed and unsigned. -/
theorem toInt_eq_toNat_of_one_lt {l : Word32} (h : 1 < l.toInt) :
    l.toInt = l.toNat ∧ l.toNat < 2 ^ 31 := by
  have := l.isLt
  rw [BitVec.toInt_eq_toNat_cond] at h ⊢
  split at h
  · rw [if_pos ‹_›]
    omega
  · omega

theorem toNat_npow2 {l : Word32} (h : 1 < l.toInt) :
    (npow2 l).toNat = 2 ^ (Nat.log2 (l.toNat - 1) + 1) ∧ Nat.log2 (l.toNat - 1) + 1 ≤ 31 := by
  obtain ⟨hint, hlt⟩ := toInt_eq_toNat_of_one_lt h
  have hlog : Nat.log2 (l.toNat - 1) < 31 := (Nat.log2_lt (by omega)).mpr (by omega)
  refine ⟨?_, hlog⟩
  rw [npow2, if_neg (by omega), BitVec.toNat_ofNat]
  exact Nat.mod_eq_of_lt (Nat.pow_lt_pow_right (by norm_num) (by omega))

/-- Settles O14: the power of two above `L - 1` is at least `L`, and every smaller one is at most
`L - 1`. -/
theorem nextPowerOfTwo : Obligations.NextPowerOfTwo := by
  refine ⟨fun _ => npow2_of_le_one, fun l hl => ?_, by decide⟩
  obtain ⟨hint, -⟩ := toInt_eq_toNat_of_one_lt hl
  obtain ⟨hval, hle⟩ := toNat_npow2 hl
  have hn : l.toNat - 1 ≠ 0 := by omega
  have hbelow : l.toNat - 1 < 2 ^ (Nat.log2 (l.toNat - 1) + 1) := Nat.lt_log2_self
  rw [hint]
  refine ⟨_, hle, hval, by exact_mod_cast (show l.toNat ≤ _ by omega), fun q hq => ?_⟩
  have hq' : l.toNat ≤ 2 ^ q := by exact_mod_cast hq
  exact Nat.pow_le_pow_right two_pos ((Nat.log2_lt hn).mpr (by omega))

/-! #### Complex functions (R140 to R143) -/

theorem getLsbD_fneg (x : F64) {j : Nat} (hj : j < 64) :
    (fneg x).getLsbD j = (x.getLsbD j != decide (j = 63)) := by
  have hmask : ∀ j < 64, (0x8000000000000000 : F64).getLsbD j = decide (j = 63) := by decide
  rw [fneg, BitVec.getLsbD_xor, hmask j hj]

theorem cadd_comm (x y : Cplx) : cadd x y = cadd y x := by
  rw [cadd, cadd, fadd_comm x.re, fadd_comm x.im]

theorem cmul_comm (x y : Cplx) : cmul x y = cmul y x := by
  rw [cmul, cmul, fmul_comm x.re y.re, fmul_comm x.im y.im, fadd_comm, fmul_comm x.im y.re,
    fmul_comm x.re y.im]

theorem csub_self {x : Cplx} (hre : isFinite x.re = true) (him : isFinite x.im = true) :
    csub x x = ⟨PZERO, PZERO⟩ := by
  rw [csub, fsub_self hre, fsub_self him]

theorem cconj_cconj (x : Cplx) : cconj (cconj x) = x := by
  rw [cconj, cconj, fneg_fneg]

/-- Settles O15, from the commutation of the primitives and negation bit by bit. -/
theorem complexFunctions : Obligations.ComplexFunctions :=
  ⟨fun x => ⟨rfl, (getLsbD_fneg x (by norm_num)).trans (Bool.xor_true _),
      fun j hj => by rw [getLsbD_fneg x (by omega), decide_eq_false hj.ne, Bool.bne_false]⟩,
    by decide, by decide,
    fun x y => ⟨rfl, cadd_comm x y⟩,
    fun _ _ => rfl,
    fun _ => csub_self,
    fun x y => ⟨rfl, cmul_comm x y⟩,
    fun x => ⟨rfl, cconj_cconj x⟩⟩

/-! #### The rotator (R131) -/

theorem COS_of_isZero {x : F64} (h : isZero x = true) : COS x = ONE := by rw [COS, if_pos h]

theorem SIN_of_isZero {x : F64} (h : isZero x = true) : SIN x = x := by rw [SIN, if_pos h]

/-- T3. -/
theorem rotator_of_not_isFinite {x : F64} (h : isFinite x = false) : COS x = CNAN ∧ SIN x = CNAN := by
  have hz : isZero x = false := Bool.eq_false_iff.mpr fun hz => by
    rw [isFinite_of_isZero hz] at h
    cases h
  simp [COS, SIN, hz, h]

theorem TRIG_EPS_pos : 0 < TRIG_EPS := rotator.eps_pos

/-- T4: the values T2 gives at zeros are in range too. -/
theorem rotator_range {x : F64} (h : isFinite x = true) :
    (isFinite (COS x) = true ∧ |val (COS x)| ≤ 1) ∧
      (isFinite (SIN x) = true ∧ |val (SIN x)| ≤ 1) := by
  cases hz : isZero x
  · simp only [COS, SIN, hz, h, Bool.false_eq_true, ↓reduceIte]
    exact ⟨rotator.cos_range x h, rotator.sin_range x h⟩
  · rw [COS_of_isZero hz, SIN_of_isZero hz, val_ONE, val_of_isZero hz]
    exact ⟨⟨by decide, by norm_num⟩, h, by norm_num⟩

/-- T5: at zeros the values of T2 are the cosine and the sine. -/
theorem rotator_accuracy {x : F64} (h : isFinite x = true) (hle : |val x| ≤ val PI64) :
    |((val (COS x) : ℚ) : ℝ) - Real.cos ((val x : ℚ) : ℝ)| ≤ TRIG_EPS ∧
      |((val (SIN x) : ℚ) : ℝ) - Real.sin ((val x : ℚ) : ℝ)| ≤ TRIG_EPS := by
  cases hz : isZero x
  · simp only [COS, SIN, hz, h, Bool.false_eq_true, ↓reduceIte]
    exact ⟨rotator.cos_accuracy x h hle, rotator.sin_accuracy x h hle⟩
  · rw [COS_of_isZero hz, SIN_of_isZero hz, val_ONE, val_of_isZero hz]
    simpa using TRIG_EPS_pos.le

/-- Settles O17, from the fields of the rotator and the values at zeros. -/
theorem rotatorProperties : Obligations.RotatorProperties :=
  ⟨⟨COS_of_isZero rfl, COS_of_isZero rfl, SIN_of_isZero rfl, SIN_of_isZero rfl⟩,
    fun _ => rotator_of_not_isFinite, fun _ => rotator_range, TRIG_EPS_pos,
    fun _ => rotator_accuracy⟩

/-! #### Twiddle factors (R150, R151, R156) -/

/-- `i2f` is exact: the word of a count that fits the significand. -/
theorem i2f_exact {k : Nat} (hk : k ≤ 2 ^ 53) : isFinite (i2f k) = true ∧ val (i2f k) = k := by
  have hlog : Nat.log2 (k * 2 ^ unitExp) < 2098 := by
    rcases Nat.eq_zero_or_pos k with rfl | hpos
    · rw [zero_mul]
      decide
    · refine (Nat.log2_lt (Nat.mul_pos hpos (Nat.two_pow_pos _)).ne').mpr ?_
      calc k * 2 ^ unitExp ≤ 2 ^ 53 * 2 ^ unitExp := Nat.mul_le_mul_right _ hk
        _ = 2 ^ (53 + unitExp) := (pow_add 2 53 unitExp).symm
        _ < 2 ^ 2098 := Nat.pow_lt_pow_right one_lt_two (by decide)
  obtain ⟨hfin, hval⟩ := smag_round64_exact ((k * 2 ^ unitExp : Nat) : Int) k unitExp
    (Int.natAbs_natCast _) hk hlog
  refine ⟨hfin, ?_⟩
  rw [val, i2f, hval]
  push_cast
  exact mul_div_cancel_right₀ _ two_pow_unitExp_pos.ne'

theorem abs_val_PI64 : |val PI64| = val PI64 := by
  have hsign : signBit PI64 = false := by decide
  conv_rhs => rw [val_eq_sign_mul_abs, hsign, if_neg Bool.false_ne_true, one_mul]

/-- The word of `2^s` times `PI64`. -/
def scaledPI64 (s : Nat) : F64 := packSign false (magBits PI64 + s * 2 ^ 52)

theorem magBits_PI64 : magBits PI64 = 0x400921FB54442D18 := by decide

theorem val_scaledPI64 {s : Nat} (hs : s ≤ 16) : val (scaledPI64 s) = val PI64 * 2 ^ s := by
  have hPI64 : packSign false (magBits PI64) = PI64 := packSign_magBits PI64
  have hbits := magBits_PI64
  rw [scaledPI64, val_packSign_add_exponent false (by omega) (by omega), hPI64]

theorem isFinite_scaledPI64 {s : Nat} (hs : s ≤ 16) : isFinite (scaledPI64 s) = true := by
  have hbits := magBits_PI64
  rw [isFinite_iff, scaledPI64, magBits_packSign _ (by omega)]
  omega

theorem val_NEG_TWO_PI : val NEG_TWO_PI = -(val PI64 * 2) := by
  have hword : NEG_TWO_PI = fneg (scaledPI64 1) := by decide
  rw [hword, val_fneg, val_scaledPI64 (by norm_num), pow_one]

/-- The product that `theta` scales is no larger than `2^s` times `PI64`. -/
theorem abs_val_angle_le {s k : Nat} (hs : 1 ≤ s) (hs16 : s ≤ 16) (hk : k < 2 ^ (s - 1)) :
    isFinite (fmul NEG_TWO_PI (i2f k)) = true ∧
      |val (fmul NEG_TWO_PI (i2f k))| ≤ val PI64 * 2 ^ s := by
  obtain ⟨s, rfl⟩ := Nat.exists_eq_add_of_le' hs
  rw [Nat.add_sub_cancel] at hk
  have hpow : 2 ^ s ≤ 2 ^ 16 := Nat.pow_le_pow_right two_pos (by omega)
  obtain ⟨hkfin, hkval⟩ := i2f_exact (k := k) (by omega)
  have hz : |val (scaledPI64 (s + 1))| = |val PI64| * 2 ^ (s + 1) := by
    rw [val_scaledPI64 hs16, abs_mul, abs_of_pos (show (0 : ℚ) < 2 ^ (s + 1) by positivity)]
  have hk' : (k : ℚ) ≤ 2 ^ s := by exact_mod_cast hk.le
  have hbound : |val NEG_TWO_PI * val (i2f k)| ≤ |val (scaledPI64 (s + 1))| := by
    rw [hz, hkval, val_NEG_TWO_PI, abs_mul, abs_neg, abs_mul, Nat.abs_cast, Nat.abs_ofNat, mul_assoc,
      pow_succ']
    exact mul_le_mul_of_nonneg_left (mul_le_mul_of_nonneg_left hk' zero_le_two) (abs_nonneg _)
  have hround := finite_of_roundsTo (roundsTo_fmul (by decide) hkfin)
    (isFinite_scaledPI64 hs16) hbound
  rwa [hz, abs_val_PI64] at hround

theorem theta_zero {s : Nat} (hs16 : s ≤ 16) : theta s 0 = NZERO := by
  have hproduct : fmul NEG_TWO_PI (i2f 0) = NZERO := by decide +kernel
  rw [theta, hproduct, fmul_of_isZero rfl (pow2_neg_isFinite hs16), mulSign, signBit_pow2_neg hs16]
  rfl

/-- The angle is finite and in `[-PI64, PI64]`, where the rotator is accurate. -/
theorem theta_range {s k : Nat} (hs : 1 ≤ s) (hs16 : s ≤ 16) (hk : k < 2 ^ (s - 1)) :
    isFinite (theta s k) = true ∧ |val (theta s k)| ≤ val PI64 := by
  obtain ⟨hfin, hle⟩ := abs_val_angle_le hs hs16 hk
  rw [← abs_val_PI64]
  refine finite_of_roundsTo (roundsTo_scale hfin hs16) (by decide) ?_
  rwa [abs_div, abs_of_pos (show (0 : ℚ) < 2 ^ s by positivity), div_le_iff₀ (by positivity),
    abs_val_PI64]

theorem cpolar_ONE {ang : F64} (h : isFinite ang = true) : cpolar ONE ang = ⟨COS ang, SIN ang⟩ := by
  obtain ⟨⟨hcos, -⟩, hsin, -⟩ := rotator_range h
  rw [cpolar, fmul_comm, fmul_comm ONE, fmul_ONE (not_isNaN_of_isFinite hcos),
    fmul_ONE (not_isNaN_of_isFinite hsin)]

/-- Settles O19: the angle is finite, so `cpolar` gives its cosine and sine, and it is where the rotator
is accurate. -/
theorem twiddleFactors : Obligations.TwiddleFactors := by
  intro s k hs hs16 hk
  obtain ⟨hfin, hle⟩ := theta_range hs hs16 hk
  have hTW : TW s k = ⟨COS (theta s k), SIN (theta s k)⟩ := cpolar_ONE hfin
  have hTW0 : TW s 0 = ⟨ONE, NZERO⟩ := by
    rw [TW, theta_zero hs16, cpolar_ONE rfl, COS_of_isZero rfl, SIN_of_isZero rfl]
  refine ⟨rfl, hTW, hTW0, ?_⟩
  rw [hTW]
  exact rotator_accuracy hfin hle

end Sys2Proof.Proofs

/-! ### Proofs for the family 41_complex_arithmetic: `cpolar` on every class of operands. -/

namespace Sys2Proof.Proofs

open Sys2Proof.Machine

/-- An infinity times a finite word: the rows of R117 for a zero and for any other factor. -/
theorem fmul_of_isInf_of_isFinite {a b : F64} (ha : isInf a = true) (hb : isFinite b = true) :
    fmul a b = if isZero b = true then CNAN else infOf (mulSign a b) := by
  split
  case isTrue hz => rw [fmul_comm, fmul_of_isZero_of_isInf hz ha]
  case isFalse hz => exact fmul_of_isInf ha (not_isNaN_of_isFinite hb) (Bool.eq_false_iff.mpr hz)

theorem cpolar_of_not_isFinite (mag : F64) {ang : F64} (h : isFinite ang = false) :
    cpolar mag ang = ⟨CNAN, CNAN⟩ := by
  obtain ⟨hcos, hsin⟩ := rotator_of_not_isFinite h
  rw [cpolar, hcos, hsin, fmul_of_isNaN (.inr (by decide))]

theorem cpolar_of_isInf {mag ang : F64} (hmag : isInf mag = true) (hang : isFinite ang = true) :
    (cpolar mag ang).re =
        (if isZero (COS ang) = true then CNAN else infOf (mulSign mag (COS ang))) ∧
      (cpolar mag ang).im =
        (if isZero (SIN ang) = true then CNAN else infOf (mulSign mag (SIN ang))) := by
  obtain ⟨⟨hcos, -⟩, hsin, -⟩ := rotator_range hang
  exact ⟨fmul_of_isInf_of_isFinite hmag hcos, fmul_of_isInf_of_isFinite hmag hsin⟩

/-- The example of R144: the sine of a zero angle is a zero, the cosine is one. -/
theorem cpolar_infOf_NZERO : cpolar (infOf false) NZERO = ⟨infOf false, CNAN⟩ := by
  rw [cpolar, COS_of_isZero rfl, SIN_of_isZero rfl, fmul_ONE rfl, fmul_comm,
    fmul_of_isZero_of_isInf rfl rfl]

/-- Settles O16: the rotator is finite on finite angles and `CNAN` on the others, and each component
is then a row of `fmul`. -/
theorem polarForm : Obligations.PolarForm :=
  ⟨fun _ _ => rfl, fun _ => cpolar_ONE, fun mag _ => cpolar_of_not_isFinite mag,
    fun _ _ => cpolar_of_isInf, cpolar_infOf_NZERO⟩

end Sys2Proof.Proofs

/-! ### Proofs for the family 42_butterfly_twiddle: rounding and the twiddle angles. -/

namespace Sys2Proof.Proofs

open Sys2Proof.Machine
open Sys2Proof.Laws.ConformingRotator (val_ONE)

/-! #### Rounding from below, of negations, of multiples by powers of two -/

/-- What is as near to `x` as both `v` and `-v` are is no nearer to zero than `v`. -/
theorem le_abs_of_dist_le {x y v : ℚ} (hpos : |x - y| ≤ |x - v|) (hneg : |x - y| ≤ |x - -v|)
    (hx : |v| ≤ |x|) : |v| ≤ |y| := by
  grind

/-- Rounding does not pass a bound from below that is the value of a word. -/
theorem le_abs_val_of_roundsTo {q : ℚ} {sz : Bool} {y z : F64} (h : RoundsTo (q : ℝ) sz y)
    (hz : isNaN z = false) (hbound : |val z| ≤ |q|) : |val z| ≤ |val y| := by
  obtain ⟨hq, rfl⟩ | ⟨-, -, -, hnear⟩ := h
  · rwa [Rat.cast_eq_zero.mp hq, ← val_zeroOf sz] at hbound
  · have hpos : |(q : ℝ) - (val y : ℚ)| ≤ |(q : ℝ) - (val z : ℚ)| := (hnear z hz).1
    have hneg : |(q : ℝ) - (val y : ℚ)| ≤ |(q : ℝ) - (val (fneg z) : ℚ)| :=
      (hnear (fneg z) (by rw [isNaN_fneg, hz])).1
    rw [val_fneg] at hneg
    exact le_abs_of_dist_le (by exact_mod_cast hpos) (by exact_mod_cast hneg) hbound

@[simp] theorem notional_fneg (x : F64) : notional (fneg x) = -notional x := by
  simp [notional]

/-- Rounding is symmetric about zero. -/
theorem roundsTo_neg {r : ℝ} {sz : Bool} {y : F64} (h : RoundsTo r sz y) :
    RoundsTo (-r) (!sz) (fneg y) := by
  obtain ⟨rfl, rfl⟩ | ⟨hr, hy, hsign, hnear⟩ := h
  · exact .inl ⟨neg_zero, fneg_zeroOf sz⟩
  have hdist : ∀ z, |-r - notional z| = |r - notional (fneg z)| := fun z => by
    rw [notional_fneg, ← abs_neg]
    congr 1
    ring
  refine .inr ⟨neg_ne_zero.mpr hr, by rwa [isNaN_fneg], ?_, fun z hz => ?_⟩
  · rw [signBit_fneg, Bool.not_eq_true', Bool.eq_false_iff, Ne, hsign, not_lt, neg_lt_zero]
    exact ⟨fun h => lt_of_le_of_ne h hr.symm, le_of_lt⟩
  · obtain ⟨hle, heven⟩ := hnear (fneg z) (by rwa [isNaN_fneg])
    rw [hdist, hdist, fneg_fneg, fracField_fneg]
    refine ⟨hle, fun heq hne => heven heq fun h => hne ?_⟩
    rw [notional_fneg, ← h, notional_fneg, neg_neg]

theorem log2_mul_two_pow {m : Nat} (hm : m ≠ 0) (j : Nat) :
    Nat.log2 (m * 2 ^ j) = Nat.log2 m + j := by
  induction j with
  | zero => simp
  | succ j ih =>
    have hne : m * 2 ^ j ≠ 0 := Nat.mul_ne_zero hm (Nat.two_pow_pos j).ne'
    rw [Nat.log2_eq_log_two] at ih ⊢
    rw [pow_succ, ← mul_assoc, Nat.log_mul_base one_lt_two hne, ih, add_assoc]

theorem roundHalfEven_mul_two_pow (m sh j : Nat) :
    roundHalfEven (m * 2 ^ j) (sh + j) = roundHalfEven m sh := by
  have hpos := Nat.two_pow_pos j
  simp only [roundHalfEven, pow_add, Nat.mul_mod_mul_right, Nat.mul_div_mul_right _ _ hpos,
    ← mul_assoc 2, Nat.mul_lt_mul_right hpos, Nat.mul_left_inj hpos.ne']

/-- `j` doublings of a magnitude in the normal range add `j` to the exponent field of its rounding. -/
theorem roundMag_mul_two_pow {m t j : Nat} (hm : m ≠ 0) (hnormal : t + 52 ≤ Nat.log2 m)
    (hbound : roundMag m t + j * 2 ^ 52 ≤ 2047 * 2 ^ 52) :
    roundMag (m * 2 ^ j) t = roundMag m t + j * 2 ^ 52 := by
  have hne : m * 2 ^ j ≠ 0 := Nat.mul_ne_zero hm (Nat.two_pow_pos j).ne'
  have hsh : roundShift (m * 2 ^ j) t = roundShift m t + j := by
    rw [roundShift, roundShift, log2_mul_two_pow hm]
    omega
  have hle : t ≤ roundShift m t := le_max_right _ _
  have heq : roundMag m t = min ((roundShift m t - t) * 2 ^ 52 + roundHalfEven m (roundShift m t))
      (2047 * 2 ^ 52) := if_neg hm
  rw [roundMag, if_neg hne, hsh, roundHalfEven_mul_two_pow]
  omega

theorem le_roundHalfEven (m sh : Nat) : m / 2 ^ sh ≤ roundHalfEven m sh := by
  unfold roundHalfEven
  split <;> omega

theorem le_roundMag {m t : Nat} (hm : m ≠ 0) (hnormal : t + 52 ≤ Nat.log2 m) :
    2 ^ 52 ≤ roundMag m t := by
  have hlog : 52 + roundShift m t = Nat.log2 m := by
    rw [roundShift]
    omega
  have hquot : 2 ^ 52 ≤ m / 2 ^ roundShift m t := by
    rw [Nat.le_div_iff_mul_le (Nat.two_pow_pos _), ← pow_add, hlog]
    exact Nat.log2_self_le hm
  have hround := le_roundHalfEven m (roundShift m t)
  rw [roundMag, if_neg hm]
  omega

/-- Rounding commutes with doublings from the normal range up to the greatest exponent (R123). -/
theorem val_round64_mul_two_pow {r : Int} {t j : Nat} (sz sz' : Bool) (hr : r ≠ 0)
    (hnormal : t + 52 ≤ Nat.log2 r.natAbs)
    (hbound : magBits (round64 r t sz) + j * 2 ^ 52 ≤ 2047 * 2 ^ 52) :
    val (round64 (r * 2 ^ j) t sz') = val (round64 r t sz) * 2 ^ j := by
  have hpos : (0 : Int) < 2 ^ j := by positivity
  have hsign : r * 2 ^ j < 0 ↔ r < 0 := by simp [mul_neg_iff, hpos, hpos.not_gt]
  have hne : r.natAbs ≠ 0 := Int.natAbs_ne_zero.mpr hr
  have habs : (r * 2 ^ j).natAbs = r.natAbs * 2 ^ j := by
    rw [Int.natAbs_mul, Int.natAbs_pow]
    rfl
  rw [magBits_round64 hr] at hbound
  rw [round64, if_neg (mul_ne_zero hr hpos.ne'), habs, round64, if_neg hr, decide_eq_decide.mpr hsign,
    roundMag_mul_two_pow hne hnormal hbound,
    val_packSign_add_exponent _ (le_roundMag hne hnormal) hbound]

theorem abs_val_mul (a b : F64) :
    |val a * val b| = (smag a * smag b).natAbs / 2 ^ (unitExp + unitExp) := by
  rw [abs_mul, abs_val, abs_val, ← natAbs_smag, ← natAbs_smag, Int.natAbs_mul, div_mul_div_comm,
    pow_add, Nat.cast_mul]

/-- A product in the normal range has a full significand in the units it is rounded from. -/
theorem le_log2_product {a b : F64} (hnormal : 1 / 2 ^ 1022 ≤ |val a * val b|) :
    unitExp + 52 ≤ Nat.log2 (smag a * smag b).natAbs := by
  have hunit : (2 : ℚ) ^ (unitExp + unitExp) = 2 ^ (unitExp + 52) * 2 ^ 1022 :=
    pow_add 2 (unitExp + 52) 1022
  rw [abs_val_mul, hunit, div_le_div_iff₀ (by positivity) (by positivity), one_mul,
    mul_le_mul_iff_left₀ (by positivity)] at hnormal
  have hle : 2 ^ (unitExp + 52) ≤ (smag a * smag b).natAbs := by exact_mod_cast hnormal
  exact (Nat.le_log2 ((Nat.two_pow_pos _).trans_le hle).ne').mpr hle

/-- A product in the normal range doubles with its second factor. -/
theorem val_fmul_mul_two_pow {a b b' : F64} {j : Nat} (ha : isFinite a = true)
    (hb : isFinite b = true) (hb' : isFinite b' = true) (hval : val b' = val b * 2 ^ j)
    (hnormal : 1 / 2 ^ 1022 ≤ |val a * val b|)
    (hbound : magBits (fmul a b) + j * 2 ^ 52 ≤ 2047 * 2 ^ 52) :
    val (fmul a b') = val (fmul a b) * 2 ^ j := by
  have hab : val a * val b ≠ 0 := abs_pos.mp (lt_of_lt_of_le (by positivity) hnormal)
  have hva : val a ≠ 0 := left_ne_zero_of_mul hab
  have hvb : val b ≠ 0 := right_ne_zero_of_mul hab
  have hvb' : val b' ≠ 0 := hval ▸ mul_ne_zero hvb (by positivity)
  have hsmag : smag b' = smag b * 2 ^ j := by
    rw [val, val, div_mul_eq_mul_div, div_left_inj' two_pow_unitExp_pos.ne'] at hval
    exact_mod_cast hval
  have hr : smag a * smag b ≠ 0 := fun h => hab (by simp [val, ← mul_div_mul_comm, ← Int.cast_mul, h])
  have hzero : ∀ {x : F64}, val x ≠ 0 → isZero x = false := fun h =>
    Bool.eq_false_iff.mpr (mt val_of_isZero h)
  rw [fmul_of_isFinite ha hb (hzero hva) (hzero hvb)] at hbound ⊢
  rw [fmul_of_isFinite ha hb' (hzero hva) (hzero hvb'), hsmag, ← mul_assoc]
  exact val_round64_mul_two_pow _ _ hr (le_log2_product hnormal) hbound

/-! #### Twiddle angles (R150, R159) -/

/-- The rounded product that `theta` scales: minus the rounding of `2 * val(PI64) * k`. -/
def angleProduct (k : Nat) : F64 := fmul NEG_TWO_PI (i2f k)

theorem angleProduct_zero : angleProduct 0 = NZERO := by decide +kernel

theorem one_le_val_PI64 : 1 ≤ val PI64 := by
  have hle : |val ONE| ≤ |val PI64| := (abs_val_le_iff rfl rfl).mpr (by decide)
  rwa [val_ONE, abs_one, abs_val_PI64] at hle

theorem two_mul_val_PI64_mul_nonneg (k : Nat) : 0 ≤ 2 * val PI64 * k :=
  mul_nonneg (mul_nonneg zero_le_two (zero_le_one.trans one_le_val_PI64)) k.cast_nonneg

/-- Words from 2 to 4 are the significands in units of `2^-51`. -/
theorem val_packSign_of_exponent_one {n : Nat} (hn : n ≤ 2 ^ 53) (hn52 : 2 ^ 52 ≤ n) :
    val (packSign false (1023 * 2 ^ 52 + n)) = n / 2 ^ 51 := by
  have hunit : (2 : ℚ) ^ unitExp = 2 ^ 51 * 2 ^ 1023 := pow_add 2 51 1023
  rw [val_packSign false (by omega), magOfBits_significand hn (.inr hn52) (by omega), hunit]
  simp only [Bool.false_eq_true, ↓reduceIte, one_mul, Nat.cast_mul, Nat.cast_pow, Nat.cast_ofNat]
  exact mul_div_mul_right _ _ (by positivity)

theorem val_PI64 : val PI64 = 7074237752028440 / 2 ^ 51 :=
  val_packSign_of_exponent_one (n := 7074237752028440) (by norm_num) (by norm_num)

/-- The greatest word below `2^s` times `PI64`. -/
def belowScaledPI64 (s : Nat) : F64 := packSign false (magBits PI64 - 1 + s * 2 ^ 52)

theorem isFinite_belowScaledPI64 {s : Nat} (hs16 : s ≤ 16) : isFinite (belowScaledPI64 s) = true := by
  have hbits := magBits_PI64
  rw [isFinite_iff, belowScaledPI64, magBits_packSign _ (by omega)]
  omega

theorem val_belowScaledPI64 {s : Nat} (hs16 : s ≤ 16) :
    val (belowScaledPI64 s) = 7074237752028439 / 2 ^ 51 * 2 ^ s := by
  have hbits := magBits_PI64
  have hbelow : val (packSign false (magBits PI64 - 1)) = 7074237752028439 / 2 ^ 51 :=
    val_packSign_of_exponent_one (n := 7074237752028439) (by norm_num) (by norm_num)
  rw [belowScaledPI64, val_packSign_add_exponent false (by omega) (by omega), hbelow]

/-- For the indices of a stage the exact product does not pass the word below `2^s` times `PI64`. -/
theorem two_mul_val_PI64_mul_le {s k : Nat} (hs : 1 ≤ s) (hs16 : s ≤ 16) (hk : k < 2 ^ (s - 1)) :
    2 * val PI64 * k ≤ val (belowScaledPI64 s) := by
  obtain ⟨s, rfl⟩ := Nat.exists_eq_add_of_le' hs
  have hk1 : (k : ℚ) + 1 ≤ 2 ^ s := by exact_mod_cast hk
  have hs15 : (2 : ℚ) ^ s ≤ 2 ^ 15 := pow_le_pow_right₀ one_le_two (by omega)
  rw [val_PI64, val_belowScaledPI64 hs16, pow_succ _ s]
  linarith

section AngleProduct

variable {k : Nat} (hk : k ≤ 2 ^ 53)
include hk

theorem val_NEG_TWO_PI_mul_i2f : val NEG_TWO_PI * val (i2f k) = -(2 * val PI64 * k) := by
  rw [val_NEG_TWO_PI, (i2f_exact hk).2]
  ring

theorem signBit_i2f : signBit (i2f k) = false := by
  obtain ⟨-, hval⟩ := i2f_exact hk
  rcases Nat.eq_zero_or_pos k with rfl | hpos
  · decide +kernel
  · have hne : val (i2f k) ≠ 0 := by rw [hval]; exact_mod_cast hpos.ne'
    rw [Bool.eq_false_iff, Ne, signBit_iff_val_neg hne, hval]
    exact k.cast_nonneg.not_gt

theorem roundsTo_fneg_angleProduct :
    RoundsTo ((2 * val PI64 * k : ℚ) : ℝ) false (fneg (angleProduct k)) := by
  have h := roundsTo_neg (roundsTo_fmul (a := NEG_TWO_PI) rfl (i2f_exact hk).1)
  rwa [val_NEG_TWO_PI_mul_i2f hk, Rat.cast_neg, neg_neg, mulSign, signBit_i2f hk] at h

theorem signBit_angleProduct : signBit (angleProduct k) = true := by
  obtain ⟨-, hzero⟩ | ⟨-, -, hsign, -⟩ := roundsTo_fneg_angleProduct hk
  · rw [← fneg_fneg (angleProduct k), hzero, signBit_fneg]
    rfl
  · rwa [signBit_fneg, Rat.cast_lt_zero, iff_false_right (two_mul_val_PI64_mul_nonneg k).not_gt,
      Bool.not_eq_true, Bool.not_eq_false'] at hsign

theorem val_angleProduct_nonpos : val (angleProduct k) ≤ 0 := by
  rw [val_eq_sign_mul_abs, signBit_angleProduct hk, if_pos rfl, neg_one_mul]
  exact neg_nonpos.mpr (abs_nonneg _)

/-- But for `k = 0` the product is far from the subnormal numbers, before and after rounding. -/
theorem one_le_abs_angleProduct (h0 : k ≠ 0) :
    1 ≤ |val NEG_TWO_PI * val (i2f k)| ∧ 1 ≤ |val (angleProduct k)| := by
  have hk1 : (1 : ℚ) ≤ k := by exact_mod_cast Nat.pos_of_ne_zero h0
  have hexact : 1 ≤ |val NEG_TWO_PI * val (i2f k)| := by
    rw [val_NEG_TWO_PI_mul_i2f hk, abs_neg]
    exact (one_le_mul_of_one_le_of_one_le (by linarith [one_le_val_PI64]) hk1).trans (le_abs_self _)
  refine ⟨hexact, ?_⟩
  rw [← abs_one, ← val_ONE]
  exact le_abs_val_of_roundsTo (roundsTo_fmul rfl (i2f_exact hk).1) rfl
    (by rwa [val_ONE, abs_one])

end AngleProduct

theorem twiddleIndex_lt {s k : Nat} (hs16 : s ≤ 16) (hk : k < 2 ^ (s - 1)) : k < 2 ^ 15 :=
  hk.trans_le (Nat.pow_le_pow_right two_pos (by omega))

theorem twiddleIndex_le {s k : Nat} (hs16 : s ≤ 16) (hk : k < 2 ^ (s - 1)) : k ≤ 2 ^ 53 :=
  (twiddleIndex_lt hs16 hk).le.trans (by norm_num)

section Stage

variable {s k : Nat} (hs : 1 ≤ s) (hs16 : s ≤ 16) (hk : k < 2 ^ (s - 1))
include hs hs16 hk

/-- The scaling of the product is exact. -/
theorem val_theta : val (theta s k) = val (angleProduct k) / 2 ^ s := by
  rcases eq_or_ne k 0 with rfl | h0
  · have hzero : val NZERO = 0 := val_zeroOf true
    rw [theta_zero hs16, angleProduct_zero, hzero, zero_div]
  · obtain ⟨-, hone⟩ := one_le_abs_angleProduct (twiddleIndex_le hs16 hk) h0
    obtain ⟨hfin, -⟩ := abs_val_angle_le hs hs16 hk
    refine val_scale hfin hs16 (le_trans ?_ hone)
    rw [div_le_one (by positivity)]
    exact pow_le_pow_right₀ one_le_two (by omega)

/-- The angle does not reach `PI64`, since rounding does not pass the word below `2^s` times it. -/
theorem abs_val_theta_lt : |val (theta s k)| < val PI64 := by
  have hle := twiddleIndex_le hs16 hk
  obtain ⟨hkfin, -⟩ := i2f_exact hle
  have hproduct : |val NEG_TWO_PI * val (i2f k)| ≤ |val (belowScaledPI64 s)| := by
    rw [val_NEG_TWO_PI_mul_i2f hle, abs_neg, abs_of_nonneg (two_mul_val_PI64_mul_nonneg k)]
    exact (two_mul_val_PI64_mul_le hs hs16 hk).trans (le_abs_self _)
  obtain ⟨-, hround⟩ :=
    finite_of_roundsTo (roundsTo_fmul rfl hkfin) (isFinite_belowScaledPI64 hs16) hproduct
  have hpow : (0 : ℚ) < 2 ^ s := by positivity
  rw [val_theta hs hs16 hk, abs_div, abs_of_pos hpow, div_lt_iff₀ hpow]
  calc |val (angleProduct k)| ≤ 7074237752028439 / 2 ^ 51 * 2 ^ s :=
        hround.trans_eq (by rw [val_belowScaledPI64 hs16, abs_of_nonneg (by positivity)])
    _ < val PI64 * 2 ^ s := mul_lt_mul_of_pos_right (by rw [val_PI64]; norm_num) hpow

/-- In the product `k * 2^j` has the significand of `k` and `j` more in the exponent. -/
theorem val_angleProduct_mul_two_pow {j : Nat} (hsj : s + j ≤ 16) (h0 : k ≠ 0) :
    val (angleProduct (k * 2 ^ j)) = val (angleProduct k) * 2 ^ j := by
  obtain ⟨hfin, hle⟩ := abs_val_angle_le hs hs16 hk
  have hk15 := twiddleIndex_lt hs16 hk
  have hj : 2 ^ j ≤ 2 ^ 15 := Nat.pow_le_pow_right two_pos (by omega)
  have hkj : k * 2 ^ j ≤ 2 ^ 53 := (Nat.mul_le_mul hk15.le hj).trans (by norm_num)
  obtain ⟨hone, -⟩ := one_le_abs_angleProduct (twiddleIndex_le hs16 hk) h0
  obtain ⟨hkfin, hkval⟩ := i2f_exact (twiddleIndex_le hs16 hk)
  obtain ⟨hkjfin, hkjval⟩ := i2f_exact hkj
  have hbits : magBits (angleProduct k) ≤ magBits (scaledPI64 s) := by
    refine (abs_val_le_iff (not_isNaN_of_isFinite hfin)
      (not_isNaN_of_isFinite (isFinite_scaledPI64 hs16))).mp ?_
    rw [val_scaledPI64 hs16]
    exact hle.trans (le_abs_self _)
  have hPI64 := magBits_PI64
  rw [scaledPI64, magBits_packSign _ (by omega)] at hbits
  refine val_fmul_mul_two_pow rfl hkfin hkjfin ?_ (le_trans ?_ hone) ?_
  · rw [hkval, hkjval, Nat.cast_mul, Nat.cast_pow, Nat.cast_ofNat]
  · exact (div_le_one (by positivity)).mpr (one_le_pow₀ one_le_two)
  · rw [← angleProduct]
    omega

end Stage

/-- Settles O18: the product is minus the rounding, its scaling is exact, and rounding stays below
`2^s` times `PI64`. -/
theorem twiddleAngles : Obligations.TwiddleAngles := by
  intro s k hs hs16 hk
  have hle := twiddleIndex_le hs16 hk
  have hval := val_theta hs hs16 hk
  obtain ⟨hfin, -⟩ := theta_range hs hs16 hk
  refine ⟨rfl, ⟨fneg (angleProduct k), roundsTo_fneg_angleProduct hle, ?_⟩, theta_zero hs16, hfin,
    ?_, ?_⟩
  · rw [hval, val_fneg, neg_neg]
  · exact neg_lt_of_abs_lt (abs_val_theta_lt hs hs16 hk)
  · rw [hval]
    exact div_nonpos_of_nonpos_of_nonneg (val_angleProduct_nonpos hle) (by positivity)

/-- The index in a later stage is in that stage's domain. -/
theorem twiddleIndex_mul_two_pow_lt {s k : Nat} (hs : 1 ≤ s) (hk : k < 2 ^ (s - 1)) (j : Nat) :
    k * 2 ^ j < 2 ^ (s + j - 1) := by
  rw [Nat.sub_add_comm hs, pow_add]
  exact Nat.mul_lt_mul_of_pos_right hk (Nat.two_pow_pos j)

/-- R159: `j` more in the exponent of the product are taken back by `pow2(-(s+j))`. -/
theorem theta_subsample {s j k : Nat} (hs : 1 ≤ s) (hsj : s + j ≤ 16) (hk : k < 2 ^ (s - 1)) :
    theta s k = theta (s + j) (k * 2 ^ j) := by
  have hs16 : s ≤ 16 := by omega
  rcases eq_or_ne k 0 with rfl | h0
  · rw [zero_mul, theta_zero hs16, theta_zero hsj]
  have hkj := twiddleIndex_mul_two_pow_lt hs hk j
  have hsj1 : 1 ≤ s + j := by omega
  have hval : val (theta s k) = val (theta (s + j) (k * 2 ^ j)) := by
    rw [val_theta hs hs16 hk, val_theta hsj1 hsj hkj,
      val_angleProduct_mul_two_pow hs hs16 hk hsj h0, pow_add,
      mul_div_mul_right _ _ (by positivity)]
  obtain ⟨hfin, -⟩ := theta_range hs hs16 hk
  obtain ⟨hfinj, -⟩ := theta_range hsj1 hsj hkj
  obtain ⟨-, hone⟩ := one_le_abs_angleProduct (twiddleIndex_le hs16 hk) h0
  have hne : val (theta s k) ≠ 0 := by
    rw [val_theta hs hs16 hk]
    exact div_ne_zero (abs_pos.mp (zero_lt_one.trans_le hone)) (by positivity)
  exact eq_of_val_eq (not_isNaN_of_isFinite hfin) (not_isNaN_of_isFinite hfinj) hval (hval ▸ hne)

/-- Settles O20: the angles are the same words, so the twiddle factors are, for every rotator. -/
theorem twiddleSubsampling : Obligations.TwiddleSubsampling := by
  refine ⟨fun _ _ _ => theta_subsample, fun p s k hs hsp hk => ?_⟩
  obtain ⟨j, hj⟩ := Nat.exists_eq_add_of_le hsp
  have hp16 : p.lmax ≤ 16 := p.lmaxLessOne.isLt
  have hhalf : p.nmax / 2 = 2 ^ (p.lmax - 1) := Nat.pow_div (hs.trans hsp) two_pos
  rw [hhalf, hj, Nat.add_sub_cancel_left, TW, TW, ← theta_subsample hs (hj ▸ hp16) hk]
  exact ⟨rfl, twiddleIndex_mul_two_pow_lt hs hk j⟩

end Sys2Proof.Proofs

/-! ### Proofs for the family 42_butterfly_twiddle: the butterfly. -/

namespace Sys2Proof.Proofs

open Sys2Proof.Machine

theorem fadd_PZERO_of_isZero {z : F64} (h : isZero z = true) : fadd PZERO z = PZERO := by
  rw [eq_zeroOf_of_isZero h]
  exact (fadd_zeroOf_zeroOf false _).trans (ite_self _)

theorem fsub_PZERO_of_isZero {z : F64} (h : isZero z = true) : fsub PZERO z = PZERO :=
  fadd_PZERO_of_isZero (by rwa [isZero_fneg])

/-- A sum with a zero keeps a word that is no zero itself. -/
theorem fadd_of_isZero_right {a z : F64} (ha : isFinite a = true) (ha0 : isZero a = false)
    (hz : isZero z = true) : fadd a z = a := by
  have hsum : val a + val z = val a := by rw [val_of_isZero hz, add_zero]
  have h0 : val a + val z ≠ 0 := hsum.trans_ne (val_ne_zero ha ha0)
  exact eq_of_roundsTo (roundsTo_fadd ha (isFinite_of_isZero hz) h0) (not_isNaN_of_isFinite ha)
    hsum h0

theorem isZero_fadd {a b : F64} (ha : isZero a = true) (hb : isZero b = true) :
    isZero (fadd a b) = true := by
  obtain ⟨s, hs⟩ := fadd_eq_zeroOf (isFinite_of_isZero ha) (isFinite_of_isZero hb)
    (by rw [val_of_isZero ha, val_of_isZero hb, add_zero])
  rw [hs, isZero_zeroOf]

theorem isZero_fmul {a b : F64} (ha : isZero a = true) (hb : isFinite b = true) :
    isZero (fmul a b) = true := by
  rw [fmul_of_isZero ha hb, isZero_zeroOf]

/-- R156: at `k = 0` the twiddle factor is `(1.0, -0.0)` under every rotator. -/
theorem TW_zero {s : Nat} (hs : 1 ≤ s) (hs16 : s ≤ 16) : TW s 0 = ⟨ONE, NZERO⟩ := by
  obtain ⟨-, -, hTW, -⟩ := twiddleFactors s 0 hs hs16 (Nat.two_pow_pos _)
  exact hTW

/-- Multiplying by `(1.0, -0.0)` adds zeros to the components, which keep what is no zero. -/
theorem cmul_one_NZERO {o : Cplx} (hre : isFinite o.re = true) (him : isFinite o.im = true)
    (hre0 : isZero o.re = false) (him0 : isZero o.im = false) : cmul o ⟨ONE, NZERO⟩ = o := by
  have hzero : ∀ {x : F64}, isFinite x = true → isZero (fmul x NZERO) = true := fun hx => by
    rw [fmul_comm]
    exact isZero_fmul rfl hx
  rw [cmul, fmul_ONE (not_isNaN_of_isFinite hre), fmul_ONE (not_isNaN_of_isFinite him),
    fsub, fadd_of_isZero_right hre hre0 (by rw [isZero_fneg, hzero him]), fadd_comm,
    fadd_of_isZero_right him him0 (hzero hre)]

theorem isZero_cmul_zero {w : Cplx} (hre : isFinite w.re = true) (him : isFinite w.im = true) :
    isZero (cmul ⟨PZERO, PZERO⟩ w).re = true ∧ isZero (cmul ⟨PZERO, PZERO⟩ w).im = true :=
  ⟨isZero_fadd (isZero_fmul rfl hre) (by rw [isZero_fneg, isZero_fmul rfl him]),
    isZero_fadd (isZero_fmul rfl him) (isZero_fmul rfl hre)⟩

theorem bfly_zero {w : Cplx} (hre : isFinite w.re = true) (him : isFinite w.im = true) :
    bfly ⟨PZERO, PZERO⟩ ⟨PZERO, PZERO⟩ w = (⟨PZERO, PZERO⟩, ⟨PZERO, PZERO⟩) := by
  obtain ⟨htre, htim⟩ := isZero_cmul_zero hre him
  rw [bfly, cadd, csub, fadd_PZERO_of_isZero htre, fadd_PZERO_of_isZero htim,
    fsub_PZERO_of_isZero htre, fsub_PZERO_of_isZero htim]

theorem isNaN_fmul {a b : F64} (h : isNaN a = true ∨ isNaN b = true) : isNaN (fmul a b) = true := by
  rw [fmul_of_isNaN h]
  decide

/-- Each component of a complex product has a term with every component of the factors in it. -/
theorem cmul_of_isNaN {o w : Cplx}
    (h : isNaN o.re = true ∨ isNaN o.im = true ∨ isNaN w.re = true ∨ isNaN w.im = true) :
    cmul o w = ⟨CNAN, CNAN⟩ := by
  have hre : isNaN (fmul o.re w.re) = true ∨ isNaN (fmul o.im w.im) = true := by
    rcases h with h | h | h | h
    exacts [.inl (isNaN_fmul (.inl h)), .inr (isNaN_fmul (.inl h)), .inl (isNaN_fmul (.inr h)),
      .inr (isNaN_fmul (.inr h))]
  have him : isNaN (fmul o.re w.im) = true ∨ isNaN (fmul o.im w.re) = true := by
    rcases h with h | h | h | h
    exacts [.inl (isNaN_fmul (.inl h)), .inr (isNaN_fmul (.inl h)), .inr (isNaN_fmul (.inr h)),
      .inl (isNaN_fmul (.inr h))]
  rw [cmul, fsub, fadd_of_isNaN (by rwa [isNaN_fneg]), fadd_of_isNaN him]

theorem bfly_of_isNaN (e : Cplx) {o w : Cplx}
    (h : isNaN o.re = true ∨ isNaN o.im = true ∨ isNaN w.re = true ∨ isNaN w.im = true) :
    bfly e o w = (⟨CNAN, CNAN⟩, ⟨CNAN, CNAN⟩) := by
  have hadd : ∀ a, fadd a CNAN = CNAN := fun _ => fadd_of_isNaN (.inr (by decide))
  have hsub : ∀ a, fsub a CNAN = CNAN := fun _ => fadd_of_isNaN (.inr (by decide))
  rw [bfly, cmul_of_isNaN h, cadd, csub, hadd, hadd, hsub, hsub]

/-- Settles O21: the first twiddle factor is `(1.0, -0.0)`; zeros stay zeros through the product; a
NaN of the product's operands is in both components of `t`, one of `E` only in its own sums. -/
theorem butterflyLaws : Obligations.ButterflyLaws := by
  refine ⟨fun _ _ _ => rfl, fun s e o hre him hre0 him0 hs hs16 => ?_, fun _ => bfly_zero,
    fun e _ _ => bfly_of_isNaN e,
    fun _ _ _ h => ⟨fadd_of_isNaN (.inl h), fadd_of_isNaN (.inl h), fun _ => ⟨rfl, rfl⟩⟩,
    fun _ _ _ h => ⟨fadd_of_isNaN (.inl h), fadd_of_isNaN (.inl h), fun _ => ⟨rfl, rfl⟩⟩⟩
  have hcmul : cmul o (TW s 0) = o := by rw [TW_zero hs hs16, cmul_one_NZERO hre him hre0 him0]
  exact ⟨hcmul, by rw [bfly, hcmul], by rw [bfly, hcmul, csub_self hre him]⟩

end Sys2Proof.Proofs

/-! ### Proofs for the family 43_fft: a vector command is the run of its micro-ops over data
memory. -/

namespace Sys2Proof.Proofs

open Sys2Proof.Machine Sys2Proof.Safety

/-! #### Micro-ops that work on data memory alone -/

/-- The micro-op neither names a register nor sets `N`: it works on data memory alone. -/
def DataOp (u : UOp) : Prop := NoRegister u ∧ ∀ v, u ≠ .setn v

/-- `t` is `s` but for data memory and the count of draws. -/
def DataOnly (s t : State) : Prop := t = { s with mem := t.mem, draws := t.draws }

theorem DataOnly.refl (s : State) : DataOnly s s := rfl

theorem DataOnly.trans {s t u : State} (hst : DataOnly s t) (htu : DataOnly t u) :
    DataOnly s u := by
  unfold DataOnly at *
  rw [htu, hst]

theorem DataOnly.params {s t : State} (h : DataOnly s t) : t.params = s.params := by rw [h]

theorem DataOnly.err {s t : State} (h : DataOnly s t) : t.err = s.err := by rw [h]

theorem DataOnly.n {s t : State} (h : DataOnly s t) : t.n = s.n := by rw [h]

theorem DataOnly.len {s t : State} (h : DataOnly s t) : t.len = s.len := by rw [h]

theorem dataOnly_readEntry (e : Nat) (s : State) : DataOnly s (readEntry e s).2 := by
  unfold DataOnly
  rw [readEntry_frame]

theorem dataOnly_writeEntry (e : Nat) (v : Cplx) (s : State) : DataOnly s (writeEntry e v s) := rfl

/-- A micro-op that reads one entry and writes it. -/
theorem dataOnly_update (e : Nat) (v : Cplx) (s : State) :
    DataOnly s (writeEntry e v (readEntry e s).2) :=
  (dataOnly_readEntry e s).trans (dataOnly_writeEntry e v _)

/-- A micro-op that reads two entries and writes both. -/
theorem dataOnly_updatePair (a b c d : Nat) (v w : Cplx) (s : State) :
    DataOnly s (writeEntry c v (writeEntry d w (readEntry b (readEntry a s).2).2)) :=
  (dataOnly_readEntry a s).trans ((dataOnly_readEntry b _).trans
    ((dataOnly_writeEntry d w _).trans (dataOnly_writeEntry c v _)))

theorem perform_dataOnly {u : UOp} (hu : DataOp u) (s : State) : DataOnly s (perform u s) := by
  obtain ⟨⟨hreads, hwrites⟩, hset⟩ := hu
  cases u with
  | nop => exact .refl s
  | swap i j => exact dataOnly_updatePair i j j i _ _ s
  | bflym a b st k => exact dataOnly_updatePair a b b a _ _ s
  | conjm e => exact dataOnly_update e _ s
  | postm e p => exact dataOnly_update e _ s
  | zero e => rfl
  | lift e => rfl
  | setn v => exact absurd rfl (hset v)
  | st r e => cases hreads
  | _ => cases hwrites

/-- The list of every vector command is of micro-ops on data memory alone (R23). -/
theorem expand_dataOp {i : Instr} (hi : NamesNoRegister i) (hset : i ≠ .npow2) {nl ll : Word32}
    {u : UOp} (hu : u ∈ expand i nl ll) : DataOp u :=
  ⟨expand_noRegister hi nl ll u hu, fun v hv => setn_not_mem_expand hset nl ll v (hv ▸ hu)⟩

/-! #### What has been written stays written -/

theorem wordWritten_write {m : Memory} {j : Nat} (a : Nat) (v : F64)
    (h : (m.lookup j).isSome = true) :
    ((m.write a v).lookup j).isSome = true := by
  rw [lookup_write]
  split
  · rfl
  · exact h

theorem wordWritten_perform (u : UOp) {s : State} {j : Nat} (h : wordWritten j s = true) :
    wordWritten j (perform u s) = true := by
  unfold wordWritten at *
  cases u with
  | st r e => simpa [perform, microSt] using wordWritten_write _ _ (wordWritten_write _ _ h)
  | swap e f =>
    simpa [perform, microSwap] using wordWritten_write _ _ (wordWritten_write _ _
      (wordWritten_write _ _ (wordWritten_write _ _ h)))
  | bflym a b st k =>
    simpa [perform, microBflym] using wordWritten_write _ _ (wordWritten_write _ _
      (wordWritten_write _ _ (wordWritten_write _ _ h)))
  | conjm e => simpa [perform, microConjm] using wordWritten_write _ _ (wordWritten_write _ _ h)
  | postm e p => simpa [perform, microPostm] using wordWritten_write _ _ (wordWritten_write _ _ h)
  | zero e => exact wordWritten_write _ _ (wordWritten_write _ _ h)
  | lift e => exact wordWritten_write _ _ h
  | _ =>
    simpa [perform, microCadd, microCsub, microCmul, microCconj, microCpolar, microTwid, microBflyr,
      microLd] using h

theorem entryWritten_perform (u : UOp) {s : State} {e : Nat} (h : EntryWritten s e) :
    EntryWritten (perform u s) e := by
  rw [← entryWritten_iff, entryWritten, Bool.and_eq_true] at h ⊢
  exact h.imp (wordWritten_perform u) (wordWritten_perform u)

theorem entriesReadable_perform (u : UOp) {s : State} {es : List Nat} (h : EntriesReadable s es) :
    EntriesReadable (perform u s) es :=
  h.imp (fun hany => (congrArg Config.Params.unwritten (perform_params u s)).trans hany)
    fun hall e he => entryWritten_perform u (hall e he)

theorem entriesReadable_mono {s : State} {es fs : List Nat} (h : EntriesReadable s fs)
    (hsub : es ⊆ fs) : EntriesReadable s es :=
  h.imp_right fun hall e he => hall e (hsub he)

theorem eq_of_entryReads_of_entryIs {s : State} {e : Nat} {x y : Cplx} (hx : EntryReads s e x)
    (hy : EntryIs s e y) : x = y := by
  obtain ⟨hre, him⟩ := hx
  obtain ⟨hre', him'⟩ := hy
  cases x
  cases y
  exact congrArg₂ Cplx.mk (hre _ hre') (him _ him')

/-- A micro-op on data memory draws nothing where the entries it reads have been written. -/
theorem perform_draws {u : UOp} {s : State} (hu : DataOp u)
    (hw : ∀ e ∈ entriesRead u, EntryWritten s e) : (perform u s).draws = s.draws := by
  have hread : ∀ e, e ∈ entriesRead u → (readEntry e s).2 = s := fun e he => by
    obtain ⟨x, hre, him⟩ := hw e he
    rw [readEntry_of_written hre him]
  obtain ⟨⟨hreads, hwrites⟩, -⟩ := hu
  cases u with
  | swap i j =>
    simp [perform, microSwap, hread i (by simp [entriesRead]), hread j (by simp [entriesRead])]
  | bflym a b st k =>
    simp [perform, microBflym, hread a (by simp [entriesRead]), hread b (by simp [entriesRead])]
  | conjm e => simp [perform, microConjm, hread e (by simp [entriesRead])]
  | postm e p => simp [perform, microPostm, hread e (by simp [entriesRead])]
  | nop => rfl
  | zero e => rfl
  | lift e => rfl
  | setn v => rfl
  | st r e => cases hreads
  | _ => cases hwrites

/-! #### Lists of micro-ops -/

/-- The micro-ops of a list, performed in order. -/
def performAll (us : List UOp) (s : State) : State := us.foldl (fun t u => perform u t) s

@[simp] theorem performAll_nil (s : State) : performAll [] s = s := rfl

@[simp] theorem performAll_cons (u : UOp) (us : List UOp) (s : State) :
    performAll (u :: us) s = performAll us (perform u s) := rfl

@[simp] theorem performAll_append (us vs : List UOp) (s : State) :
    performAll (us ++ vs) s = performAll vs (performAll us s) := List.foldl_append

theorem performAll_take_succ {us : List UOp} {m : Nat} (h : m < us.length) (s : State) :
    performAll (us.take (m + 1)) s = perform us[m] (performAll (us.take m) s) := by
  rw [← List.take_append_getElem h, performAll_append, performAll_cons, performAll_nil]

theorem performAll_dataOnly {us : List UOp} (hus : ∀ u ∈ us, DataOp u) (s : State) :
    DataOnly s (performAll us s) := by
  induction us generalizing s with
  | nil => exact .refl s
  | cons u us ih =>
    obtain ⟨hu, hus⟩ := List.forall_mem_cons.mp hus
    exact (perform_dataOnly hu s).trans (ih hus _)

theorem entriesReadable_performAll (us : List UOp) {s : State} {es : List Nat}
    (h : EntriesReadable s es) : EntriesReadable (performAll us s) es := by
  induction us generalizing s with
  | nil => exact h
  | cons u us ih => exact ih (entriesReadable_perform u h)

theorem performAll_draws {us : List UOp} {s : State} (hus : ∀ u ∈ us, DataOp u)
    (hw : ∀ u ∈ us, ∀ e ∈ entriesRead u, EntryWritten s e) : (performAll us s).draws = s.draws := by
  induction us generalizing s with
  | nil => rfl
  | cons u us ih =>
    obtain ⟨hu, hus⟩ := List.forall_mem_cons.mp hus
    obtain ⟨hwu, hw⟩ := List.forall_mem_cons.mp hw
    rw [performAll_cons, ih hus fun v hv e he => entryWritten_perform u (hw v hv e he),
      perform_draws hu hwu]

/-- On written entries such a list changes data memory alone. -/
theorem performAll_memOnly {us : List UOp} {s : State} (hus : ∀ u ∈ us, DataOp u)
    (hw : ∀ u ∈ us, ∀ e ∈ entriesRead u, EntryWritten s e) :
    performAll us s = { s with mem := (performAll us s).mem } := by
  have hdata := performAll_dataOnly hus s
  rwa [DataOnly, performAll_draws hus hw] at hdata

/-! #### The life of a vector command

A command in flight after `m` of its micro-ops is the state those micro-ops make of the block at
issue, with the latches of the command (R27). -/

theorem advance_inFlight (w : Word32) (m : Nat) (s : State) :
    advance (inFlight w m s) = inFlight w (m + 1) s :=
  congrArg (fun pos => { inFlight w m s with pos := pos }) (BitVec.ofNat_add m 1).symm

section VectorCommand

variable {i : Instr} {s : State} (hs : Idle s) (hi : NamesNoRegister i) (hset : i ≠ .npow2)
  (hcheck : issueCheck s.params i s.n s.len = none)
  (hreads : ∀ u ∈ expand i s.n s.len, EntriesReadable s (entriesRead u))
include hs hi hset hcheck hreads

theorem execTimes_performs {m : Nat} (hm : m ≤ (expand i s.n s.len).length) :
    execTimes i (m + 1) s =
      .next (inFlight (encode i) m (performAll ((expand i s.n s.len).take m) s)) := by
  induction m with
  | zero =>
    have hissue : execTimes i 1 s = exec i s := execTimes_succ rfl
    exact hissue.trans (exec_issues hs hcheck)
  | succ m ih =>
    have hlength := length_expand_lt hcheck
    have hmem := List.getElem_mem (l := expand i s.n s.len) (n := m) (by omega)
    have hop := expand_dataOp hi hset hmem
    have hdata : DataOnly s (performAll ((expand i s.n s.len).take m) s) :=
      performAll_dataOnly (fun u hu => expand_dataOp hi hset (List.mem_of_mem_take hu)) s
    have hmay : mayRead (expand i s.n s.len)[m]
        (performAll ((expand i s.n s.len).take m) s) = true :=
      mayRead_of_entriesReadable hop.1.1 (entriesReadable_performAll _ (hreads _ hmem))
    have hnames : namesExist (expand i s.n s.len)[m]
        (performAll ((expand i s.n s.len).take m) s) = true :=
      namesExist_of_issueCheck (hdata.params ▸ hcheck) hmem
    rw [execTimes_succ (ih (by omega)), performAll_take_succ (by omega)]
    generalize performAll ((expand i s.n s.len).take m) s = t at *
    have hu : (expand i t.n t.len)[(BitVec.ofNat 32 m).toNat]? = some (expand i s.n s.len)[m] := by
      rw [hdata.n, hdata.len, BitVec.toNat_ofNat, Nat.mod_eq_of_lt (by omega)]
      exact List.getElem?_eq_getElem _
    rw [exec_microOp (s := inFlight (encode i) m t) rfl hu,
      microStep_next (s := inFlight (encode i) m t) hnames hmay, perform_inFlight hop.2,
      advance_inFlight]

/-- A vector command performs its list and retires. -/
theorem execTimes_vectorCommand {k : Nat} (hk : k = (expand i s.n s.len).length) :
    execTimes i (k + 2) s = .next (finished (encode i) k (performAll (expand i s.n s.len) s)) := by
  subst hk
  have hrun := execTimes_performs hs hi hset hcheck hreads le_rfl
  have hdata : DataOnly s (performAll (expand i s.n s.len) s) :=
    performAll_dataOnly (fun u hu => expand_dataOp hi hset hu) s
  have hpos : (BitVec.ofNat 32 (expand i s.n s.len).length).toNat =
      (expand i s.n s.len).length := by
    rw [BitVec.toNat_ofNat, Nat.mod_eq_of_lt (length_expand_lt hcheck)]
  rw [List.take_length] at hrun
  generalize performAll (expand i s.n s.len) s = t at *
  rw [execTimes_succ hrun, exec_busy rfl, inFlight_nl, inFlight_ll, hdata.n, hdata.len,
    sequencerStep_retires hpos.ge]
  rfl

end VectorCommand

/-! #### Words and entries a list leaves alone -/

theorem entryReads_of_sameEntry {s t : State} {e : Nat} {x : Cplx} (h : SameEntry s t e)
    (hx : EntryReads t e x) : EntryReads s e x :=
  ⟨fun w hw => hx.1 w (h.1.trans hw), fun w hw => hx.2 w (h.2.trans hw)⟩

theorem entryIs_of_sameEntry {s t : State} {e : Nat} {x : Cplx} (h : SameEntry s t e)
    (hx : EntryIs s e x) : EntryIs t e x :=
  ⟨h.1.trans hx.1, h.2.trans hx.2⟩

theorem performAll_lookup {us : List UOp} (s : State) {j : Nat}
    (h : ∀ u ∈ us, ∀ e ∈ entriesNamed u, j ≠ 2 * e ∧ j ≠ 2 * e + 1) :
    (performAll us s).mem.lookup j = s.mem.lookup j := by
  induction us generalizing s with
  | nil => rfl
  | cons u us ih =>
    obtain ⟨hu, hus⟩ := List.forall_mem_cons.mp h
    rw [performAll_cons, ih _ hus, perform_lookup s hu]

theorem sameEntry_performAll {us : List UOp} (s : State) {e : Nat}
    (h : ∀ u ∈ us, e ∉ entriesNamed u) : SameEntry s (performAll us s) e := by
  have hne : ∀ u ∈ us, ∀ f ∈ entriesNamed u, f ≠ e := fun u hu f hf hfe => h u hu (hfe ▸ hf)
  constructor
  all_goals
    refine performAll_lookup s fun u hu f hf => ?_
    have := hne u hu f hf
    omega

theorem sameFrom_performAll {us : List UOp} {n : Nat} (s : State)
    (h : ∀ u ∈ us, ∀ e ∈ entriesNamed u, e < n) : SameFrom (2 * n) s (performAll us s) := by
  refine fun j hj => performAll_lookup s fun u hu e he => ?_
  have := h u hu e he
  omega

/-! #### Micro-ops that share no entry (R170, R173, R174)

Each finds its entries as they were before the list, and what it leaves in them stays. -/

/-- No two micro-ops of the list name a common entry. -/
def NoSharedEntry (us : List UOp) : Prop :=
  us.Pairwise fun u v => (entriesNamed u).Disjoint (entriesNamed v)

theorem noSharedEntry_of_nodup {us : List UOp} (hnodup : us.Nodup)
    (hus : ∀ u ∈ us, ∀ v ∈ us, ∀ e ∈ entriesNamed u, e ∈ entriesNamed v → u = v) :
    NoSharedEntry us :=
  hnodup.imp_of_mem fun hu hv hne e he he' => hne (hus _ hu _ hv e he he')

theorem performAll_of_noSharedEntry {us : List UOp} {u : UOp} (hus : NoSharedEntry us) (hu : u ∈ us)
    (s : State) : ∃ r, ∀ e ∈ entriesNamed u,
      SameEntry s r e ∧ SameEntry (perform u r) (performAll us s) e := by
  obtain ⟨before, after, rfl⟩ := List.append_of_mem hu
  obtain ⟨-, hcons, hbefore⟩ := List.pairwise_append.mp hus
  obtain ⟨hafter, -⟩ := List.pairwise_cons.mp hcons
  refine ⟨performAll before s, fun e he => ⟨?_, ?_⟩⟩
  · exact sameEntry_performAll s fun v hv hve => hbefore v hv u List.mem_cons_self hve he
  · rw [performAll_append, performAll_cons]
    exact sameEntry_performAll _ fun v hv hve => hafter v hv he hve

/-- The micro-op reads the entries `a` and `b` and writes both components of `f` to them. -/
def ComputesPair (u : UOp) (a b : Nat) (f : Cplx → Cplx → Cplx × Cplx) : Prop :=
  entriesNamed u = [a, b] ∧ ∀ s, ∃ x y, EntryReads s a x ∧ EntryReads s b y ∧
    EntryIs (perform u s) a (f x y).1 ∧ EntryIs (perform u s) b (f x y).2

theorem entryIs_writeEntry_other {a b : Nat} (h : a ≠ b) {x : Cplx} (v : Cplx) {s : State}
    (hx : EntryIs s a x) : EntryIs (writeEntry b v s) a x :=
  ⟨(lookup_writeEntry_other v s (by omega) (by omega)).trans hx.1,
    (lookup_writeEntry_other v s (by omega) (by omega)).trans hx.2⟩

/-- Both entries are read before either is written. -/
def readWritePair (a b : Nat) (f : Cplx → Cplx → Cplx × Cplx) (s : State) : State :=
  let x := readEntry a s
  let y := readEntry b x.2
  writeEntry b (f x.1 y.1).2 (writeEntry a (f x.1 y.1).1 y.2)

theorem computesPair_of_readWritePair {u : UOp} {a b : Nat} {f : Cplx → Cplx → Cplx × Cplx}
    (hab : a ≠ b) (hnames : entriesNamed u = [a, b]) (hu : perform u = readWritePair a b f) :
    ComputesPair u a b f := by
  refine ⟨hnames, fun s => ⟨(readEntry a s).1, (readEntry b (readEntry a s).2).1,
    entryReads_readEntry a s, ?_, ?_⟩⟩
  · have hsame : SameEntry s (readEntry a s).2 b := by constructor <;> rw [readEntry2_mem]
    exact entryReads_of_sameEntry hsame (entryReads_readEntry b _)
  · rw [hu]
    exact ⟨entryIs_writeEntry_other hab _ (entryIs_writeEntry a _ _), entryIs_writeEntry b _ _⟩

theorem computesPair_swap {i j : Nat} (h : i ≠ j) :
    ComputesPair (.swap i j) i j fun x y => (y, x) :=
  computesPair_of_readWritePair h rfl rfl

theorem computesPair_bflym {a b : Nat} (h : a ≠ b) (st k : Nat) :
    ComputesPair (.bflym a b st k) a b fun x y => bfly x y (TW st k) :=
  computesPair_of_readWritePair h rfl rfl

/-- In a list whose micro-ops share no entry, a pair is computed of the entries before the list and
stays. -/
theorem ComputesPair.of_noSharedEntry {us : List UOp} {u : UOp} {a b : Nat}
    {f : Cplx → Cplx → Cplx × Cplx} (h : ComputesPair u a b f) (hus : NoSharedEntry us)
    (hu : u ∈ us) (s : State) : ∃ x y, EntryReads s a x ∧ EntryReads s b y ∧
      EntryIs (performAll us s) a (f x y).1 ∧ EntryIs (performAll us s) b (f x y).2 := by
  obtain ⟨hnames, hperform⟩ := h
  obtain ⟨r, hr⟩ := performAll_of_noSharedEntry hus hu s
  obtain ⟨x, y, hx, hy, hfst, hsnd⟩ := hperform r
  obtain ⟨hbefore, hafter⟩ := hr a (by simp [hnames])
  obtain ⟨hbefore', hafter'⟩ := hr b (by simp [hnames])
  exact ⟨x, y, entryReads_of_sameEntry hbefore hx, entryReads_of_sameEntry hbefore' hy,
    entryIs_of_sameEntry hafter hfst, entryIs_of_sameEntry hafter' hsnd⟩

end Sys2Proof.Proofs

/-! ### Proofs for the family 43_fft: `BITREV` and `BSTAGE` whole. -/

namespace Sys2Proof.Proofs

open Sys2Proof.Machine Sys2Proof.Safety

/-! #### Legal lengths -/

theorem zeroOrPow2_of_transformLength {nl : Word32} (h : TransformLength nl) :
    ZeroOrPow2 nl.toNat :=
  h.imp_left fun h => by rw [h]; rfl

theorem two_pow_log2 {n i : Nat} (hn : ZeroOrPow2 n) (hi : i < n) : 2 ^ log2 n = n := by
  rcases hn with rfl | ⟨p, rfl⟩
  · omega
  · rw [log2_two_pow]

theorem transformCheck_of_transformLength {nmax : Nat} {nl : Word32} (h : TransformLength nl)
    (hcap : nl.toNat ≤ nmax) : transformCheck nmax nl = none := by
  have hlen : nl.toNat = 0 ∨ ispow2 nl.toNat = true :=
    (zeroOrPow2_of_transformLength h).imp_right (ispow2_iff _).mpr
  simp [transformCheck, lengthCheck, capacityCheck, hlen, hcap]

/-- Where entries `0 .. n-1` may be read, a list that names no others may read what it names. -/
theorem entriesReadable_of_names_lt {us : List UOp} {n : Nat} {s : State}
    (hr : EntriesReadable s (List.range n)) (hus : ∀ u ∈ us, ∀ e ∈ entriesNamed u, e < n) :
    ∀ u ∈ us, EntriesReadable s (entriesRead u) :=
  fun u hu => entriesReadable_mono hr fun e he =>
    List.mem_range.mpr (hus u hu e (entriesRead_subset_entriesNamed u he))

/-! #### The reordering (R167, R174) -/

section Reorder

variable {n : Nat} (hn : ZeroOrPow2 n)
include hn

theorem rev_lt_length {i : Nat} (hi : i < n) : rev (log2 n) i < n :=
  (rev_lt (log2 n) i).trans_eq (two_pow_log2 hn hi)

theorem rev_rev_length {i : Nat} (hi : i < n) : rev (log2 n) (rev (log2 n) i) = i :=
  rev_rev _ _ (hi.trans_eq (two_pow_log2 hn hi).symm)

omit hn in
theorem mem_reorder {u : UOp} : u ∈ reorder n ↔
    ∃ i < n, i < rev (log2 n) i ∧ u = .swap i (rev (log2 n) i) := by
  simp only [reorder, List.mem_filterMap, List.mem_range, Option.ite_none_right_eq_some,
    Option.some_inj, eq_comm (a := u)]

/-- An entry that a swap of the list names is no palindrome, and the swap is that of its pair. -/
theorem reorder_names {u : UOp} {e : Nat} (hu : u ∈ reorder n) (he : e ∈ entriesNamed u) :
    rev (log2 n) e ≠ e ∧ u = .swap (min e (rev (log2 n) e)) (max e (rev (log2 n) e)) := by
  obtain ⟨i, hi, hlt, rfl⟩ := mem_reorder.mp hu
  have hback := rev_rev_length hn hi
  rcases (by simpa [entriesNamed] using he : e = i ∨ e = rev (log2 n) i) with rfl | rfl
  · exact ⟨hlt.ne', by rw [min_eq_left hlt.le, max_eq_right hlt.le]⟩
  · exact ⟨by rw [hback]; exact hlt.ne, by rw [hback, min_eq_right hlt.le, max_eq_left hlt.le]⟩

/-- Each unordered pair stands once, at its smaller member (R167). -/
theorem reorder_noSharedEntry : NoSharedEntry (reorder n) := by
  have hnodup : (reorder n).Nodup := List.nodup_range.filterMap fun i j u hi hj => by
    obtain ⟨-, hi⟩ := Option.ite_none_right_eq_some.mp hi
    obtain ⟨-, hj⟩ := Option.ite_none_right_eq_some.mp hj
    injection Option.some_inj.mp (hi.trans hj.symm)
  exact noSharedEntry_of_nodup hnodup fun u hu v hv e he he' =>
    (reorder_names hn hu he).2.trans (reorder_names hn hv he').2.symm

/-- Of an entry that is no palindrome, some swap of the list is with its partner. -/
theorem reorder_exchanges (s : State) {i : Nat} (hi : i < n) (hne : rev (log2 n) i ≠ i) :
    ∃ x, EntryReads s (rev (log2 n) i) x ∧ EntryIs (performAll (reorder n) s) i x := by
  have hshare := reorder_noSharedEntry hn
  have hrev := rev_lt_length hn hi
  have hback := rev_rev_length hn hi
  rcases Nat.lt_or_gt_of_ne hne with hlt | hgt
  · have hmem : UOp.swap (rev (log2 n) i) i ∈ reorder n :=
      mem_reorder.mpr ⟨_, hrev, by rwa [hback], by rw [hback]⟩
    obtain ⟨x, y, hx, -, -, hix⟩ := (computesPair_swap hne).of_noSharedEntry hshare hmem s
    exact ⟨x, hx, hix⟩
  · have hmem : UOp.swap i (rev (log2 n) i) ∈ reorder n := mem_reorder.mpr ⟨i, hi, hgt, rfl⟩
    obtain ⟨x, y, -, hy, hiy, -⟩ := (computesPair_swap hne.symm).of_noSharedEntry hshare hmem s
    exact ⟨y, hy, hiy⟩

theorem reorder_keeps_palindrome (s : State) {i : Nat} (hpal : rev (log2 n) i = i) :
    SameEntry s (performAll (reorder n) s) i :=
  sameEntry_performAll s fun _ hu hi => (reorder_names hn hu hi).1 hpal

/-- R174 on written entries: `D[i]` takes what `D[rev(p, i)]` held. -/
theorem reorder_entryIs {s : State} {i : Nat} {x : Cplx} (hi : i < n)
    (hx : EntryIs s (rev (log2 n) i) x) : EntryIs (performAll (reorder n) s) i x := by
  by_cases hpal : rev (log2 n) i = i
  · exact entryIs_of_sameEntry (reorder_keeps_palindrome hn s hpal) (hpal ▸ hx)
  · obtain ⟨y, hy, hiy⟩ := reorder_exchanges hn s hi hpal
    exact eq_of_entryReads_of_entryIs hy hx ▸ hiy

theorem reorder_names_lt : ∀ u ∈ reorder n, ∀ e ∈ entriesNamed u, e < n :=
  fun _ hu _ he => reorder_entries_lt hn hu he

/-- A second reordering restores every word, as the reversal is an involution. -/
theorem reorder_restores {s t : State} (hwritten : ∀ i < n, EntryWritten s i)
    (hmoved : ∀ i < n, ∀ x, EntryIs s (rev (log2 n) i) x → EntryIs t i x)
    (hfrom : SameFrom (2 * n) s t) (j : Nat) :
    (performAll (reorder n) t).mem.lookup j = s.mem.lookup j := by
  rcases Nat.lt_or_ge j (2 * n) with hj | hj
  · have hi : j / 2 < n := by omega
    obtain ⟨x, hx⟩ := hwritten (j / 2) hi
    have hpartner : EntryIs t (rev (log2 n) (j / 2)) x :=
      hmoved _ (rev_lt_length hn hi) x (by rwa [rev_rev_length hn hi])
    obtain ⟨hre, him⟩ := hx
    obtain ⟨hre', him'⟩ := reorder_entryIs hn hi hpartner
    rcases (by omega : j = 2 * (j / 2) ∨ j = 2 * (j / 2) + 1) with h | h
    · rw [h, hre, hre']
    · rw [h, him, him']
  · exact (sameFrom_performAll t (reorder_names_lt hn) j hj).trans (hfrom j hj)

theorem reorder_readable {s : State}
    (hr : EntriesReadable s ((List.range n).filter fun i => rev (log2 n) i ≠ i)) :
    ∀ u ∈ reorder n, EntriesReadable s (entriesRead u) := by
  refine fun u hu => entriesReadable_mono hr fun e he => ?_
  have hnamed := entriesRead_subset_entriesNamed u he
  simpa using And.intro (reorder_names_lt hn u hu e hnamed) (reorder_names hn hu hnamed).1

end Reorder

/-! #### `BITREV` whole -/

theorem execTimes_bitrev {s : State} {n k : Nat} (hs : Idle s) (hlen : n = s.n.toNat)
    (hlegal : TransformLength s.n) (hcap : n ≤ s.params.nmax)
    (hr : EntriesReadable s ((List.range n).filter fun i => rev (log2 n) i ≠ i))
    (hk : k = (reorder n).length) :
    execTimes .bitrev (k + 2) s = .next (finished 0x80000000 k (performAll (reorder n) s)) := by
  subst hlen
  exact execTimes_vectorCommand hs (.inl rfl) nofun (transformCheck_of_transformLength hlegal hcap)
    (reorder_readable (zeroOrPow2_of_transformLength hlegal) hr) hk

/-- Settles O52: the swaps share no entry, and the reversal is an involution. -/
theorem bitReverseCommandRuns : Obligations.BitReverseCommandRuns := by
  rintro s n k hs rfl hlegal hcap hr hk
  have hn := zeroOrPow2_of_transformLength hlegal
  have hdata : DataOnly s (performAll (reorder s.n.toNat) s) :=
    performAll_dataOnly
      (fun u hu => expand_dataOp (i := .bitrev) (ll := s.len) (.inl rfl) nofun hu) s
  have hmoved : ∀ i < s.n.toNat, ∀ x, EntryIs s (rev (log2 s.n.toNat) i) x →
      EntryIs (performAll (reorder s.n.toNat) s) i x := fun i hi x => reorder_entryIs hn hi
  have hfrom := sameFrom_performAll s (reorder_names_lt hn)
  refine ⟨exec_issues hs (transformCheck_of_transformLength hlegal hcap), _,
    execTimes_bitrev hs rfl hlegal hcap hr hk, congrArg (finished 0x80000000 k) hdata,
    fun i hi => reorder_exchanges hn s hi, fun i _ => reorder_keeps_palindrome hn s, hfrom,
    fun hwritten => ⟨hmoved, _, execTimes_bitrev ⟨rfl, hdata.err.trans hs.2⟩
      (congrArg BitVec.toNat hdata.n.symm) (hdata.n.symm ▸ hlegal) (hdata.params.symm ▸ hcap)
      (.inr fun i hi => ?_) hk, ?_⟩⟩
  · have hi : i < s.n.toNat := List.mem_range.mp (List.mem_of_mem_filter hi)
    obtain ⟨x, hx⟩ := hwritten _ (rev_lt_length hn hi)
    exact ⟨x, hmoved i hi x hx⟩
  · exact reorder_restores hn (t := finished 0x80000000 k (performAll (reorder s.n.toNat) s))
      hwritten hmoved hfrom

/-! #### The stages (R169, R170) -/

/-- The upper entry of butterfly `i` of stage `st` (R169). -/
def upperEntry (st i : Nat) : Nat := i / 2 ^ (st - 1) * 2 ^ st + i % 2 ^ (st - 1)

theorem stageUOp_eq (st i : Nat) : stageUOp st i =
    .bflym (upperEntry st i) (upperEntry st i + 2 ^ (st - 1)) st (i % 2 ^ (st - 1)) := rfl

/-- Block and index of a butterfly are those of each entry it names (R170). -/
theorem stageUOp_names {st i e : Nat} (hst : 1 ≤ st) (he : e ∈ entriesNamed (stageUOp st i)) :
    e / 2 ^ (st - 1) / 2 = i / 2 ^ (st - 1) ∧ e % 2 ^ (st - 1) = i % 2 ^ (st - 1) := by
  have hpos : 0 < 2 ^ (st - 1) := Nat.two_pow_pos _
  have hspan : 2 ^ st = 2 * 2 ^ (st - 1) := by rw [← pow_succ', Nat.sub_add_cancel hst]
  have hindex : i % 2 ^ (st - 1) < 2 ^ (st - 1) := Nat.mod_lt _ hpos
  have hupper : upperEntry st i = i % 2 ^ (st - 1) + 2 ^ (st - 1) * (2 * (i / 2 ^ (st - 1))) := by
    rw [upperEntry, hspan]
    ring
  rcases (by simpa [stageUOp_eq, entriesNamed] using he :
    e = upperEntry st i ∨ e = upperEntry st i + 2 ^ (st - 1)) with rfl | rfl
  · rw [hupper, Nat.add_mul_div_left _ _ hpos, Nat.div_eq_of_lt hindex, Nat.add_mul_mod_self_left,
      Nat.mod_eq_of_lt hindex]
    omega
  · rw [Nat.add_div_right _ hpos, Nat.add_mod_right, hupper, Nat.add_mul_div_left _ _ hpos,
      Nat.div_eq_of_lt hindex, Nat.add_mul_mod_self_left, Nat.mod_eq_of_lt hindex]
    omega

/-- An entry tells the butterfly that names it. -/
theorem stageUOp_eq_of_names {st i j e : Nat} (hst : 1 ≤ st) (hi : e ∈ entriesNamed (stageUOp st i))
    (hj : e ∈ entriesNamed (stageUOp st j)) : i = j := by
  obtain ⟨hblock, hindex⟩ := stageUOp_names hst hi
  obtain ⟨hblock', hindex'⟩ := stageUOp_names hst hj
  rw [← Nat.div_add_mod i (2 ^ (st - 1)), ← hblock, ← hindex, hblock', hindex', Nat.div_add_mod]

theorem stage_noSharedEntry {st : Nat} (hst : 1 ≤ st) (n : Nat) : NoSharedEntry (stage st n) :=
  List.pairwise_map.mpr (List.nodup_range.imp fun hne _ hi hj =>
    hne (stageUOp_eq_of_names hst hi hj))

theorem computesPair_stageUOp (st i : Nat) : ComputesPair (stageUOp st i) (upperEntry st i)
    (upperEntry st i + 2 ^ (st - 1)) fun e o => bfly e o (TW st (i % 2 ^ (st - 1))) :=
  computesPair_bflym (Nat.lt_add_of_pos_right (Nat.two_pow_pos _)).ne _ _

/-- What a stage does: each butterfly is of its two entries as they were before the stage (R171). -/
theorem stage_computes {st : Nat} (hst : 1 ≤ st) {n i : Nat} (hi : i < n / 2) (s : State) :
    ∃ e o, EntryReads s (upperEntry st i) e ∧ EntryReads s (upperEntry st i + 2 ^ (st - 1)) o ∧
      EntryIs (performAll (stage st n) s) (upperEntry st i)
        (bfly e o (TW st (i % 2 ^ (st - 1)))).1 ∧
      EntryIs (performAll (stage st n) s) (upperEntry st i + 2 ^ (st - 1))
        (bfly e o (TW st (i % 2 ^ (st - 1)))).2 :=
  (computesPair_stageUOp st i).of_noSharedEntry (stage_noSharedEntry hst n)
    (List.mem_map_of_mem (List.mem_range.mpr hi)) s

theorem checkBstage_of_legal {nmax st : Nat} {nl : Word32} (h : TransformLength nl)
    (hcap : nl.toNat ≤ nmax) (hst : 1 ≤ st) (hlog : st ≤ log2 nl.toNat) :
    checkBstage nmax st nl = none := by
  simp [checkBstage, transformCheck_of_transformLength h hcap, operandCheck, stageInRange, hst,
    hlog]

/-- Settles O53: no two butterflies of the stage share an entry. -/
theorem stageCommandRuns : Obligations.StageCommandRuns := by
  rintro st s n h k hs rfl rfl hlegal hcap hst hlog hr hk
  have hcheck : issueCheck s.params (.bstage st) s.n s.len = none :=
    checkBstage_of_legal hlegal hcap hst hlog
  have hnames : ∀ u ∈ stage st s.n.toNat, ∀ e ∈ entriesNamed u, e < s.n.toNat := fun u hu e he =>
    stage_entries_lt (zeroOrPow2_of_transformLength hlegal) hst hlog hu he
  have hi : NamesNoRegister (.bstage st) := .inr (.inl ⟨st, rfl⟩)
  refine ⟨exec_issues hs hcheck, hk.trans (length_stage st _), _,
    execTimes_vectorCommand hs hi nofun hcheck (entriesReadable_of_names_lt hr hnames) hk,
    congrArg (finished (encode (.bstage st)) k)
      (performAll_dataOnly (fun u hu => expand_dataOp hi nofun hu) s),
    fun i hi => stage_computes hst hi s, sameFrom_performAll s hnames⟩

end Sys2Proof.Proofs

/-! ### Proofs for the family 43_fft: `FFT` is the recursion, by the block invariant of R175. -/

namespace Sys2Proof.Proofs

open Sys2Proof.Machine Sys2Proof.Safety

/-! #### The recursion on subsequences (R165) -/

/-- The subsequence of `m` elements of `X` from index `r` on, `d` apart. -/
def strided (X : Nat → Cplx) : Nat → Nat → Nat → List Cplx
  | 0, _, _ => []
  | m + 1, r, d => X r :: strided X m (r + d) d

/-- The transform of the `2^q` elements of `X` from index `r` on, `d` apart. -/
def transform (X : Nat → Cplx) : Nat → Nat → Nat → List Cplx
  | 0, r, _ => [X r]
  | q + 1, r, d => combine (q + 1) (transform X q r (2 * d)) (transform X q (r + d) (2 * d))

section Recursion

variable (X : Nat → Cplx)

theorem length_strided (m r d : Nat) : (strided X m r d).length = m := by
  induction m generalizing r with
  | zero => rfl
  | succ m ih => rw [strided, List.length_cons, ih]

theorem getElem_strided {m r d i : Nat} (h : i < (strided X m r d).length) :
    (strided X m r d)[i] = X (r + i * d) := by
  induction m generalizing r i with
  | zero => exact absurd h (Nat.not_lt_zero i)
  | succ m ih =>
    cases i with
    | zero => simp [strided]
    | succ i =>
      simp only [strided, List.getElem_cons_succ, ih]
      congr 1
      ring

theorem evens_strided (m r d : Nat) : evens (strided X (2 * m) r d) = strided X m r (2 * d) := by
  induction m generalizing r with
  | zero => rfl
  | succ m ih =>
    rw [Nat.mul_succ, strided, strided, strided, evens, ih, Nat.add_assoc, Nat.two_mul]

theorem odds_strided (m r d : Nat) :
    odds (strided X (2 * m) r d) = strided X m (r + d) (2 * d) := by
  induction m generalizing r with
  | zero => rfl
  | succ m ih =>
    rw [Nat.mul_succ, strided, strided, strided, odds, ih, Nat.two_mul]
    congr 2
    ring

theorem length_butterflies (s k : Nat) {ev od : List Cplx} (h : ev.length = od.length) :
    (butterflies s k ev od).length = ev.length := by
  induction ev generalizing k od with
  | nil => rfl
  | cons e ev ih =>
    obtain ⟨o, od, rfl⟩ := List.exists_cons_of_length_eq_add_one h.symm
    rw [butterflies, List.length_cons, List.length_cons, ih (k + 1) (Nat.succ.inj h)]

theorem length_transform (q r d : Nat) : (transform X q r d).length = 2 ^ q := by
  induction q generalizing r d with
  | zero => rfl
  | succ q ih =>
    rw [transform, combine, List.length_append, List.length_map, List.length_map,
      length_butterflies _ _ ((ih _ _).trans (ih _ _).symm), ih, pow_succ, Nat.mul_two]

/-- Two elements and more of an even number are the combination of their halves (R165 step 5). -/
theorem fftWithin_succ {D : Nat} {x ev od : List Cplx} (hx : 2 ≤ x.length)
    (heven : x.length % 2 = 0) (hev : fftWithin D (evens x) = some ev)
    (hod : fftWithin D (odds x) = some od) :
    fftWithin (D + 1) x = some (combine (log2 x.length) ev od) := by
  match x with
  | a :: b :: xs => rw [fftWithin, if_neg (by omega), hev, hod]

theorem fftWithin_strided {q D : Nat} (hD : q ≤ D) (r d : Nat) :
    fftWithin D (strided X (2 ^ q) r d) = some (transform X q r d) := by
  induction q generalizing D r d with
  | zero => simp [strided, transform, fftWithin]
  | succ q ih =>
    obtain ⟨D, rfl⟩ := Nat.exists_eq_add_of_le' (Nat.one_le_of_lt hD)
    have hlength := length_strided X (2 ^ (q + 1)) r d
    have hpos := Nat.two_pow_pos q
    have hdouble : 2 ^ (q + 1) = 2 * 2 ^ q := pow_succ' 2 q
    have hevens : fftWithin D (evens (strided X (2 ^ (q + 1)) r d)) =
        some (transform X q r (2 * d)) := by rw [hdouble, evens_strided, ih (by omega)]
    have hodds : fftWithin D (odds (strided X (2 ^ (q + 1)) r d)) =
        some (transform X q (r + d) (2 * d)) := by rw [hdouble, odds_strided, ih (by omega)]
    rw [fftWithin_succ (by omega) (by omega) hevens hodds, hlength, log2_two_pow, transform]

end Recursion

/-- A list as a function of the index. -/
def element (x : List Cplx) (i : Nat) : Cplx := x.getD i czero

theorem element_eq {x : List Cplx} {i : Nat} (h : i < x.length) : element x i = x[i] :=
  List.getD_eq_getElem x czero h

theorem strided_element (x : List Cplx) : strided (element x) x.length 0 1 = x :=
  List.ext_getElem (length_strided _ _ _ _) fun i _ hi => by
    rw [getElem_strided, Nat.zero_add, Nat.mul_one, element_eq hi]

theorem fft_eq_transform {x : List Cplx} {p : Nat} (hp : x.length = 2 ^ p) :
    fft x = some (transform (element x) p 0 1) := by
  have hstrided := fftWithin_strided (element x) (Nat.lt_two_pow_self (n := p)).le 0 1
  rwa [← hp, strided_element] at hstrided

/-! #### Blocks of data memory -/

/-- The entries from `b` on hold the elements of `y`, in order. -/
def HoldsFrom (s : State) (b : Nat) (y : List Cplx) : Prop :=
  ∀ i x, y[i]? = some x → EntryIs s (b + i) x

theorem holdsFrom_zero_iff {s : State} {y : List Cplx} : HoldsFrom s 0 y ↔ Holds s y := by
  simp only [HoldsFrom, Holds, Nat.zero_add]
  constructor
  · exact fun h i hi => h i y[i] (List.getElem?_eq_getElem hi)
  · intro h i x hx
    obtain ⟨hi, rfl⟩ := List.getElem?_eq_some_iff.mp hx
    exact h i hi

theorem holdsFrom_append {s : State} {b : Nat} {y z : List Cplx} (hy : HoldsFrom s b y)
    (hz : HoldsFrom s (b + y.length) z) : HoldsFrom s b (y ++ z) := by
  intro i x hx
  rcases Nat.lt_or_ge i y.length with hi | hi
  · exact hy i x (by rwa [List.getElem?_append_left hi] at hx)
  · rw [List.getElem?_append_right hi] at hx
    have := hz _ x hx
    rwa [Nat.add_assoc, Nat.add_sub_cancel' hi] at this

theorem getElem?_butterflies {s k i : Nat} {ev od : List Cplx} {pq : Cplx × Cplx}
    (h : (butterflies s k ev od)[i]? = some pq) :
    ∃ e o, ev[i]? = some e ∧ od[i]? = some o ∧ pq = bfly e o (TW s (k + i)) := by
  induction ev generalizing k i od with
  | nil => simp [butterflies] at h
  | cons e ev ih =>
    cases od with
    | nil => simp [butterflies] at h
    | cons o od =>
      rw [butterflies] at h
      cases i with
      | zero => exact ⟨e, o, rfl, rfl, (Option.some_inj.mp h).symm⟩
      | succ i =>
        obtain ⟨e', o', he, ho, rfl⟩ := ih h
        exact ⟨e', o', he, ho, by rw [Nat.add_right_comm, Nat.add_assoc]⟩

/-- Butterfly `i` of block `g` in stage `q + 1` (R169), on entries that have been written. -/
theorem stage_entryIs {q g i n : Nat} {s : State} {e o : Cplx} (hi : i < 2 ^ q)
    (hg : (g + 1) * 2 ^ (q + 1) ≤ n) (he : EntryIs s (g * 2 ^ (q + 1) + i) e)
    (ho : EntryIs s (g * 2 ^ (q + 1) + i + 2 ^ q) o) :
    EntryIs (performAll (stage (q + 1) n) s) (g * 2 ^ (q + 1) + i) (bfly e o (TW (q + 1) i)).1 ∧
      EntryIs (performAll (stage (q + 1) n) s) (g * 2 ^ (q + 1) + i + 2 ^ q)
        (bfly e o (TW (q + 1) i)).2 := by
  have hblock : (g * 2 ^ q + i) / 2 ^ q = g := by
    rw [Nat.mul_comm, Nat.mul_add_div (Nat.two_pow_pos q), Nat.div_eq_of_lt hi, Nat.add_zero]
  have hindex : (g * 2 ^ q + i) % 2 ^ q = i := by
    rw [Nat.mul_comm, Nat.mul_add_mod_self_left, Nat.mod_eq_of_lt hi]
  have hupper : upperEntry (q + 1) (g * 2 ^ q + i) = g * 2 ^ (q + 1) + i := by
    rw [upperEntry, Nat.add_sub_cancel, hblock, hindex]
  have hlt : g * 2 ^ q + i < n / 2 := by
    have hdouble : (g + 1) * 2 ^ (q + 1) = 2 * (g * 2 ^ q + 2 ^ q) := by ring
    omega
  obtain ⟨e', o', he', ho', hfst, hsnd⟩ := stage_computes (Nat.le_add_left 1 q) hlt s
  simp only [Nat.add_sub_cancel, hupper, hindex] at he' ho' hfst hsnd
  rw [← eq_of_entryReads_of_entryIs he' he, ← eq_of_entryReads_of_entryIs ho' ho]
  exact ⟨hfst, hsnd⟩

/-- A stage combines two neighbouring blocks as the recursion does its halves (R175). -/
theorem stage_combines {q g n : Nat} {s : State} {ev od : List Cplx} (hev : ev.length = 2 ^ q)
    (hod : od.length = 2 ^ q) (hg : (g + 1) * 2 ^ (q + 1) ≤ n)
    (hevens : HoldsFrom s (2 * g * 2 ^ q) ev) (hodds : HoldsFrom s ((2 * g + 1) * 2 ^ q) od) :
    HoldsFrom (performAll (stage (q + 1) n) s) (g * 2 ^ (q + 1)) (combine (q + 1) ev od) := by
  have hbutterfly : ∀ i pq, (butterflies (q + 1) 0 ev od)[i]? = some pq →
      EntryIs (performAll (stage (q + 1) n) s) (g * 2 ^ (q + 1) + i) pq.1 ∧
        EntryIs (performAll (stage (q + 1) n) s) (g * 2 ^ (q + 1) + i + 2 ^ q) pq.2 := by
    intro i pq hpq
    obtain ⟨e, o, he, ho, rfl⟩ := getElem?_butterflies hpq
    have hi : i < 2 ^ q := hev ▸ (List.getElem?_eq_some_iff.mp he).1
    rw [Nat.zero_add]
    refine stage_entryIs hi hg ?_ ?_
    · rw [show g * 2 ^ (q + 1) + i = 2 * g * 2 ^ q + i by ring]
      exact hevens i e he
    · rw [show g * 2 ^ (q + 1) + i + 2 ^ q = (2 * g + 1) * 2 ^ q + i by ring]
      exact hodds i o ho
  refine holdsFrom_append (fun i x hx => ?_) (fun i x hx => ?_)
  · obtain ⟨pq, hpq, rfl⟩ := Option.map_eq_some_iff.mp (List.getElem?_map.symm.trans hx)
    exact (hbutterfly i pq hpq).1
  · obtain ⟨pq, hpq, rfl⟩ := Option.map_eq_some_iff.mp (List.getElem?_map.symm.trans hx)
    rw [List.length_map, length_butterflies _ _ (hev.trans hod.symm), hev, Nat.add_right_comm]
    exact (hbutterfly i pq hpq).2

/-! #### The block invariant (R175) -/

/-- Each of the `2^r` blocks of `2^q` entries holds the transform of its subsequence of `X`. -/
def BlocksHold (X : Nat → Cplx) (q r : Nat) (s : State) : Prop :=
  ∀ g < 2 ^ r, HoldsFrom s (g * 2 ^ q) (transform X q (rev r g) (2 ^ r))

theorem blocksHold_reorder {s : State} {x : List Cplx} {p : Nat} (hp : x.length = 2 ^ p)
    (hx : Holds s x) : BlocksHold (element x) 0 p (performAll (reorder (2 ^ p)) s) := by
  intro g hg i y hy
  have hrev : rev p g < x.length := (rev_lt p g).trans_eq hp.symm
  obtain ⟨rfl, rfl⟩ : i = 0 ∧ element x (rev p g) = y := by
    simpa [transform, List.getElem?_singleton] using hy
  rw [pow_zero, Nat.mul_one, Nat.add_zero, element_eq hrev]
  refine reorder_entryIs (.inr ⟨p, rfl⟩) hg ?_
  rw [log2_two_pow]
  exact hx _ hrev

theorem blocksHold_stage {X : Nat → Cplx} {q r : Nat} {s : State} (h : BlocksHold X q (r + 1) s) :
    BlocksHold X (q + 1) r (performAll (stage (q + 1) (2 ^ (q + 1 + r))) s) := by
  intro g hg
  obtain ⟨hevenRev, hoddRev⟩ := rev_succ_double r g
  have hblocks : 2 ^ (r + 1) = 2 * 2 ^ r := pow_succ' 2 r
  have hevens := h (2 * g) (by omega)
  have hodds := h (2 * g + 1) (by omega)
  rw [hevenRev, hblocks] at hevens
  rw [hoddRev, Nat.add_comm (2 ^ r), hblocks] at hodds
  refine stage_combines (length_transform X q _ _) (length_transform X q _ _) ?_ hevens hodds
  calc (g + 1) * 2 ^ (q + 1) ≤ 2 ^ r * 2 ^ (q + 1) := Nat.mul_le_mul_right _ hg
    _ = 2 ^ (q + 1 + r) := by rw [pow_add _ (q + 1) r, Nat.mul_comm]

theorem blocksHold_stages {X : Nat → Cplx} {s : State} {p q r : Nat} (hp : q + r = p)
    (h : BlocksHold X 0 p s) :
    BlocksHold X q r (performAll ((List.range q).flatMap fun j => stage (j + 1) (2 ^ p)) s) := by
  induction q generalizing r with
  | zero =>
    obtain rfl : r = p := by omega
    exact h
  | succ q ih =>
    rw [List.range_succ, List.flatMap_append, List.flatMap_singleton, performAll_append, ← hp]
    exact blocksHold_stage (hp ▸ ih (by omega))

/-- R176: reordering and all stages leave the transform of what the entries held. -/
theorem transform_holds {s : State} {x : List Cplx} (hn : ZeroOrPow2 x.length) (hx : Holds s x) :
    ∃ y, fft x = some y ∧ y.length = x.length ∧
      Holds (performAll (reorder x.length ++ stages x.length) s) y := by
  rcases hn with hzero | ⟨p, hp⟩
  · obtain rfl := List.length_eq_zero_iff.mp hzero
    exact ⟨[], rfl, rfl, nofun⟩
  · have hblocks := blocksHold_stages (q := p) (r := 0) rfl (blocksHold_reorder hp hx)
    have hwhole := hblocks 0 Nat.one_pos
    refine ⟨_, fft_eq_transform hp, (length_transform _ _ _ _).trans hp.symm, ?_⟩
    rw [hp, performAll_append, stages, log2_two_pow, ← holdsFrom_zero_iff]
    simpa [rev] using hwhole

/-! #### `FFT` whole -/

theorem reorder_append_stages_of_le_one {n : Nat} (h : n ≤ 1) : reorder n ++ stages n = [] := by
  rcases Nat.le_one_iff_eq_zero_or_eq_one.mp h with rfl | rfl <;> rfl

theorem entryWritten_of_holds {s : State} {x : List Cplx} (hx : Holds s x) {e : Nat}
    (he : e < x.length) : EntryWritten s e := ⟨x[e], hx e he⟩

/-- Settles O54, from the block invariant at the last stage. -/
theorem forwardTransformRuns : Obligations.ForwardTransformRuns := by
  intro s x k hs hlen hlegal hcap hx hk
  have hcheck : issueCheck s.params .fft s.n s.len = none :=
    transformCheck_of_transformLength hlegal hcap
  have hn := zeroOrPow2_of_transformLength hlegal
  have hlist : expand .fft s.n s.len = reorder x.length ++ stages x.length := by rw [hlen]; rfl
  have hnames : ∀ u ∈ expand .fft s.n s.len, ∀ e ∈ entriesNamed u, e < x.length :=
    fun u hu e he => hlen ▸ expandFft_entries_lt hn hu he
  have hreads : ∀ u ∈ expand .fft s.n s.len, ∀ e ∈ entriesRead u, EntryWritten s e :=
    fun u hu e he => entryWritten_of_holds hx
      (hnames u hu e (entriesRead_subset_entriesNamed u he))
  have hi : NamesNoRegister .fft := .inr (.inr (.inl rfl))
  have hops : ∀ u ∈ expand .fft s.n s.len, DataOp u := fun u hu => expand_dataOp hi nofun hu
  obtain ⟨y, hy, hlength, hholds⟩ := transform_holds (hlen ▸ hn) hx
  refine ⟨exec_issues hs hcheck, y, _, hy, hlength,
    execTimes_vectorCommand hs hi nofun hcheck (fun u hu => .inr (hreads u hu)) hk,
    congrArg (finished 0x88000000 k) (performAll_memOnly hops hreads), hlist ▸ hholds,
    sameFrom_performAll s hnames, fun hone => ?_⟩
  rw [hlist, reorder_append_stages_of_le_one hone]
  rfl

end Sys2Proof.Proofs

/-! ### Proofs for the family 43_fft: the transforms that every rotator agrees on (R180). -/

namespace Sys2Proof.Proofs

open Sys2Proof.Machine

theorem TW_isFinite {s k : Nat} (hs : 1 ≤ s) (hs16 : s ≤ 16) (hk : k < 2 ^ (s - 1)) :
    isFinite (TW s k).re = true ∧ isFinite (TW s k).im = true := by
  obtain ⟨hfin, -⟩ := theta_range hs hs16 hk
  obtain ⟨⟨hcos, -⟩, hsin, -⟩ := rotator_range hfin
  rw [TW, cpolar_ONE hfin]
  exact ⟨hcos, hsin⟩

/-- The recursion on four elements (R165). -/
theorem fft_four (a b c d : Cplx) : fft [a, b, c, d] =
    some (combine 2 (combine 1 [a] [c]) (combine 1 [b] [d])) :=
  (fft_eq_transform (x := [a, b, c, d]) (p := 2) rfl).trans rfl

theorem combine_one (e o : Cplx) :
    combine 1 [e] [o] = [(bfly e o (TW 1 0)).1, (bfly e o (TW 1 0)).2] := rfl

theorem combine_two (e₀ e₁ o₀ o₁ : Cplx) : combine 2 [e₀, e₁] [o₀, o₁] =
    [(bfly e₀ o₀ (TW 2 0)).1, (bfly e₁ o₁ (TW 2 1)).1, (bfly e₀ o₀ (TW 2 0)).2,
      (bfly e₁ o₁ (TW 2 1)).2] := rfl

/-- Whatever finite number the twiddle factor is, its product with zero is zeros, which the word of
`1.0` keeps. -/
theorem bfly_one_czero {w : Cplx} (hw : isFinite w.re = true ∧ isFinite w.im = true) :
    bfly ⟨ONE, PZERO⟩ czero w = (⟨ONE, PZERO⟩, ⟨ONE, PZERO⟩) := by
  obtain ⟨htre, htim⟩ := isZero_cmul_zero hw.1 hw.2
  have hone : isFinite ONE = true := by decide
  have hone0 : isZero ONE = false := by decide
  rw [bfly, cadd, csub, czero, fadd_of_isZero_right hone hone0 htre, fadd_PZERO_of_isZero htim,
    fsub, fadd_of_isZero_right hone hone0 (by rwa [isZero_fneg]), fsub_PZERO_of_isZero htim]

theorem bfly_czero_czero {w : Cplx} (hw : isFinite w.re = true ∧ isFinite w.im = true) :
    bfly czero czero w = (czero, czero) := bfly_zero hw.1 hw.2

theorem bfly_one_one : bfly ⟨ONE, PZERO⟩ ⟨ONE, PZERO⟩ ⟨ONE, NZERO⟩ =
    (⟨0x4000000000000000, PZERO⟩, czero) := by decide +kernel

theorem bfly_two_two : bfly ⟨0x4000000000000000, PZERO⟩ ⟨0x4000000000000000, PZERO⟩ ⟨ONE, NZERO⟩ =
    (⟨0x4010000000000000, PZERO⟩, czero) := by decide +kernel

/-- Settles O22: the one twiddle factor that a rotator chooses, `TW(2, 1)`, multiplies zero. -/
theorem knownTransforms : Obligations.KnownTransforms := by
  have hTW10 : TW 1 0 = ⟨ONE, NZERO⟩ := TW_zero (by decide) (by decide)
  have hTW20 : TW 2 0 = ⟨ONE, NZERO⟩ := TW_zero (by decide) (by decide)
  have hfin : isFinite (TW 2 1).re = true ∧ isFinite (TW 2 1).im = true :=
    TW_isFinite (by decide) (by decide) (by decide)
  have hfin0 : isFinite ONE = true ∧ isFinite NZERO = true := by decide
  refine ⟨?_, ?_⟩
  · rw [fft_four, combine_one, combine_one, combine_two, hTW10, hTW20, bfly_one_czero hfin0,
      bfly_czero_czero hfin0, bfly_one_czero hfin0, bfly_one_czero hfin]
  · rw [fft_four, combine_one, combine_two, hTW10, hTW20, bfly_one_one, bfly_two_two,
      bfly_czero_czero hfin]

end Sys2Proof.Proofs

/-! ### Proofs for the family 44_ifft: a list of one micro-op for each entry; `CONJV` and `IPOST`
whole. -/

namespace Sys2Proof.Proofs

open Sys2Proof.Machine Sys2Proof.Safety

/-! #### One micro-op for each entry -/

/-- The micro-op `op i` names the entry `i` alone, reads it and leaves its image under `f` there. -/
structure ComputesEach (op : Nat → UOp) (f : Cplx → Cplx) : Prop where
  names : ∀ i, entriesNamed (op i) = [i]
  computes : ∀ i s, ∃ x, EntryReads s i x ∧ EntryIs (perform (op i) s) i (f x)

theorem computesEach_conjm : ComputesEach .conjm cconj :=
  ⟨fun _ => rfl, fun i s => ⟨_, entryReads_readEntry i s, entryIs_writeEntry i _ _⟩⟩

theorem computesEach_postm (p : Nat) : ComputesEach (fun i => .postm i p) (post p) :=
  ⟨fun _ => rfl, fun i s => ⟨_, entryReads_readEntry i s, entryIs_writeEntry i _ _⟩⟩

theorem noSharedEntry_of_each {op : Nat → UOp} (hop : ∀ i, entriesNamed (op i) = [i]) (n : Nat) :
    NoSharedEntry ((List.range n).map op) :=
  List.pairwise_map.mpr (List.nodup_range.imp fun hne => by simpa [hop] using hne.symm)

namespace ComputesEach

variable {op : Nat → UOp} {f : Cplx → Cplx} (h : ComputesEach op f)
include h

theorem names_lt {n : Nat} : ∀ u ∈ (List.range n).map op, ∀ e ∈ entriesNamed u, e < n :=
  fun _ hu _ he => entries_lt_of_each h.names hu he

/-- Each entry below `n` is computed of what it held before the list. -/
theorem entryIs {n i : Nat} (hi : i < n) (s : State) :
    ∃ x, EntryReads s i x ∧ EntryIs (performAll ((List.range n).map op) s) i (f x) := by
  have hmem : op i ∈ (List.range n).map op := List.mem_map_of_mem (List.mem_range.mpr hi)
  obtain ⟨r, hr⟩ := performAll_of_noSharedEntry (noSharedEntry_of_each h.names n) hmem s
  obtain ⟨hbefore, hafter⟩ := hr i (by simp [h.names])
  obtain ⟨x, hx, hfx⟩ := h.computes i r
  exact ⟨x, entryReads_of_sameEntry hbefore hx, entryIs_of_sameEntry hafter hfx⟩

theorem entryWritten {n i : Nat} (hi : i < n) (s : State) :
    EntryWritten (performAll ((List.range n).map op) s) i := by
  obtain ⟨x, -, hx⟩ := h.entryIs hi s
  exact ⟨_, hx⟩

theorem holds_map {s : State} {x : List Cplx} (hx : Holds s x) :
    Holds (performAll ((List.range x.length).map op) s) (x.map f) := by
  intro i hi
  rw [List.length_map] at hi
  obtain ⟨y, hy, hfy⟩ := h.entryIs hi s
  rw [List.getElem_map, ← eq_of_entryReads_of_entryIs hy (hx i hi)]
  exact hfy

/-- A command whose list is one such micro-op for each entry below `n`. -/
theorem command_runs {i : Instr} {s : State} {n : Nat} (hs : Idle s) (hi : NamesNoRegister i)
    (hset : i ≠ .npow2) (hcheck : issueCheck s.params i s.n s.len = none)
    (hlist : expand i s.n s.len = (List.range n).map op) (hr : EntriesReadable s (List.range n)) :
    exec i s = .next (inFlight (encode i) 0 s) ∧
    ∃ t, execTimes i (n + 2) s = .next t ∧
      t = finished (encode i) n { s with mem := t.mem, draws := t.draws } ∧
      (∀ e < n, ∃ x, EntryReads s e x ∧ EntryIs t e (f x)) ∧ SameFrom (2 * n) s t := by
  have hlength : n = (expand i s.n s.len).length := by simp [hlist]
  have hreads := entriesReadable_of_names_lt hr h.names_lt
  have hdata : DataOnly s (performAll (expand i s.n s.len) s) :=
    performAll_dataOnly (fun u hu => expand_dataOp hi hset hu) s
  refine ⟨exec_issues hs hcheck, _,
    execTimes_vectorCommand hs hi hset hcheck (hlist ▸ hreads) hlength,
    congrArg (finished (encode i) n) hdata, ?_⟩
  rw [hlist]
  exact ⟨fun e he => h.entryIs he s, sameFrom_performAll s h.names_lt⟩

end ComputesEach

/-! #### `CONJV` and `IPOST` whole -/

/-- Settles O56: `uCONJM` of each entry; no length is required but that it fits. -/
theorem conjugateVectorRuns : Obligations.ConjugateVectorRuns := by
  rintro s n hs rfl hcap hr
  exact computesEach_conjm.command_runs hs (.inr (.inr (.inr (.inl rfl)))) nofun (if_pos hcap) rfl
    hr

/-- Settles O57: `uPOSTM` of each entry. -/
theorem postProcessRuns : Obligations.PostProcessRuns := by
  rintro s n hs rfl hlegal hcap hr
  exact (computesEach_postm _).command_runs hs (.inr (.inr (.inr (.inr (.inl rfl))))) nofun
    (transformCheck_of_transformLength hlegal hcap) rfl hr

end Sys2Proof.Proofs

/-! ### Proofs for the family 44_ifft: `IFFT` whole, and as `CONJV`, `FFT` and `IPOST` in turn. -/

namespace Sys2Proof.Proofs

open Sys2Proof.Machine Sys2Proof.Safety

/-! #### The commands of R194, each from an idle block -/

/-- The block is idle with a legal length whose entries may be read. -/
structure TransformReady (s : State) : Prop where
  idle : Idle s
  legal : TransformLength s.n
  fits : s.n.toNat ≤ s.params.nmax
  readable : EntriesReadable s (List.range s.n.toNat)

/-- `IFFT` and the three commands it stands for. -/
def InverseCommand (i : Instr) : Prop := i = .conjv ∨ i = .fft ∨ i = .ipost ∨ i = .ifft

theorem inverseCommand_conjv : InverseCommand .conjv := .inl rfl
theorem inverseCommand_fft : InverseCommand .fft := .inr (.inl rfl)
theorem inverseCommand_ipost : InverseCommand .ipost := .inr (.inr (.inl rfl))
theorem inverseCommand_ifft : InverseCommand .ifft := .inr (.inr (.inr rfl))

namespace InverseCommand

variable {i : Instr} (hi : InverseCommand i)
include hi

theorem namesNoRegister : NamesNoRegister i := by
  rcases hi with rfl | rfl | rfl | rfl <;> simp [NamesNoRegister]

theorem ne_npow2 : i ≠ .npow2 := by
  rcases hi with rfl | rfl | rfl | rfl <;> nofun

theorem expand_dataOps (nl ll : Word32) : ∀ u ∈ expand i nl ll, DataOp u :=
  fun _ hu => expand_dataOp hi.namesNoRegister hi.ne_npow2 hu

theorem entries_lt {nl ll : Word32} (hn : ZeroOrPow2 nl.toNat) :
    ∀ u ∈ expand i nl ll, ∀ e ∈ entriesNamed u, e < nl.toNat := by
  intro u hu e he
  rcases hi with rfl | rfl | rfl | rfl
  exacts [computesEach_conjm.names_lt u hu e he, expandFft_entries_lt hn hu he,
    (computesEach_postm _).names_lt u hu e he, expandIfft_entries_lt hn hu he]

theorem issueCheck_eq_none {s : State} (h : TransformReady s) :
    issueCheck s.params i s.n s.len = none := by
  have htransform := transformCheck_of_transformLength h.legal h.fits
  rcases hi with rfl | rfl | rfl | rfl
  exacts [if_pos h.fits, htransform, htransform, htransform]

theorem wholeCommand_eq {s : State} (h : TransformReady s) : wholeCommand i s =
    .next (finished (encode i) (expand i s.n s.len).length (performAll (expand i s.n s.len) s)) :=
  execTimes_vectorCommand h.idle hi.namesNoRegister hi.ne_npow2 (hi.issueCheck_eq_none h)
    (entriesReadable_of_names_lt h.readable
      (hi.entries_lt (zeroOrPow2_of_transformLength h.legal))) rfl

end InverseCommand

/-! #### `IFFT` whole -/

/-- The list of `IFFT` leaves `ifft` of what the entries held (R185). -/
theorem inverse_holds {s : State} {x : List Cplx} {nl : Word32} (hlen : x.length = nl.toNat)
    (hn : ZeroOrPow2 nl.toNat) (hx : Holds s x) :
    ∃ y, ifft x = some y ∧ y.length = x.length ∧ Holds (performAll (expandIfft nl) s) y := by
  have hconj : Holds (performAll (conjList x.length) s) (x.map cconj) :=
    computesEach_conjm.holds_map hx
  have hlength : (x.map cconj).length = x.length := List.length_map _
  obtain ⟨y, hfft, hy, hholds⟩ := transform_holds (hlength.trans hlen ▸ hn) hconj
  rw [hlength] at hy hholds
  refine ⟨y.map (post (log2 x.length)), by rw [ifft, hfft]; rfl, (List.length_map _).trans hy, ?_⟩
  rw [expandIfft, ← hlen, performAll_append, performAll_append, postList]
  have hpost := (computesEach_postm (log2 x.length)).holds_map hholds
  rwa [hy] at hpost

/-- Settles O55: the three sub-lists of the command are the three steps of R185. -/
theorem inverseTransformRuns : Obligations.InverseTransformRuns := by
  rintro s x k hs hlen hlegal hcap hx rfl
  have hn := zeroOrPow2_of_transformLength hlegal
  have hi := inverseCommand_ifft
  have hnames := hi.entries_lt (ll := s.len) hn
  have hwritten : ∀ e < s.n.toNat, EntryWritten s e := fun e he =>
    entryWritten_of_holds hx (he.trans_eq hlen.symm)
  have hready : TransformReady s :=
    ⟨hs, hlegal, hcap, .inr fun e he => hwritten e (List.mem_range.mp he)⟩
  have hmem := performAll_memOnly (hi.expand_dataOps s.n s.len) fun u hu e he =>
    hwritten e (hnames u hu e (entriesRead_subset_entriesNamed u he))
  obtain ⟨y, hy, hlength, hholds⟩ := inverse_holds hlen hn hx
  refine ⟨exec_issues hs (hi.issueCheck_eq_none hready), y, _, hy, hlength,
    hi.wholeCommand_eq hready, congrArg (finished 0x94000000 _) hmem, hholds, ?_⟩
  rw [hlen]
  exact sameFrom_performAll s hnames

/-! #### Commands one after another (R194)

A micro-op on data memory does not look at what a command leaves in the latches and the status, so a
command issued after another performs its list on what the first one's list has made of the data. -/

theorem performAll_inFlight {us : List UOp} (hus : ∀ u ∈ us, DataOp u) (w : Word32) (k : Nat)
    (s : State) : performAll us (inFlight w k s) = inFlight w k (performAll us s) := by
  induction us generalizing s with
  | nil => rfl
  | cons u us ih =>
    obtain ⟨⟨-, hset⟩, hus⟩ := List.forall_mem_cons.mp hus
    rw [performAll_cons, performAll_cons, perform_inFlight hset, ih hus]

/-- From the lemma before, as acceptance overwrites all that a finished command left. -/
theorem performAll_finished {us : List UOp} (hus : ∀ u ∈ us, DataOp u) (w : Word32) (k : Nat)
    (s : State) : performAll us (finished w k s) = finished w k (performAll us s) := by
  have hflight :
      inFlight w k (performAll us (finished w k s)) = inFlight w k (performAll us s) := by
    rw [← performAll_inFlight hus, ← performAll_inFlight hus]
    rfl
  have hmem : (performAll us (finished w k s)).mem = (performAll us s).mem :=
    (congrArg State.mem hflight :)
  have hdraws : (performAll us (finished w k s)).draws = (performAll us s).draws :=
    (congrArg State.draws hflight :)
  rw [performAll_dataOnly hus (finished w k s), hmem, hdraws]
  exact (congrArg (finished w k) (performAll_dataOnly hus s)).symm

theorem entryWritten_performAll (us : List UOp) {s : State} {e : Nat} (h : EntryWritten s e) :
    EntryWritten (performAll us s) e := by
  induction us generalizing s with
  | nil => exact h
  | cons u us ih => exact ih (entryWritten_perform u h)

section After

variable {s : State} (h : TransformReady s) {us : List UOp} (hus : ∀ u ∈ us, DataOp u)
include h hus

/-- A block that was ready is ready again when a command of the list `us` has retired. -/
theorem transformReady_after (w : Word32) (k : Nat) :
    TransformReady (finished w k (performAll us s)) := by
  have hdata := performAll_dataOnly hus s
  refine ⟨⟨rfl, hdata.err.trans h.idle.2⟩, hdata.n.symm ▸ h.legal, ?_,
    hdata.n.symm ▸ entriesReadable_performAll us h.readable⟩
  exact hdata.n.symm ▸ hdata.params.symm ▸ h.fits

theorem wholeCommand_after {i : Instr} (hi : InverseCommand i) (w : Word32) (k : Nat) :
    wholeCommand i (finished w k (performAll us s)) =
      .next (finished (encode i) (expand i s.n s.len).length
        (performAll (us ++ expand i s.n s.len) s)) := by
  have hdata := performAll_dataOnly hus s
  have hlist : expand i (performAll us s).n (performAll us s).len = expand i s.n s.len := by
    rw [hdata.n, hdata.len]
  calc wholeCommand i (finished w k (performAll us s))
      = .next (finished (encode i) (expand i (performAll us s).n (performAll us s).len).length
          (performAll (expand i (performAll us s).n (performAll us s).len)
            (finished w k (performAll us s)))) :=
        hi.wholeCommand_eq (transformReady_after h hus w k)
    _ = .next (finished (encode i) (expand i s.n s.len).length
          (finished w k (performAll (us ++ expand i s.n s.len) s))) := by
        rw [hlist, performAll_finished (hi.expand_dataOps _ _), performAll_append]

end After

theorem expandIfft_eq (nl : Word32) :
    expandIfft nl = expandConjv nl ++ expandFft nl ++ expandIpost nl := rfl

/-- Settles O60: the list of `IFFT` is the lists of the three commands one after another, so it
leaves the same data. -/
theorem inverseIsThreeCommands : Obligations.InverseIsThreeCommands := by
  intro s hs hlegal hcap hr
  have hready : TransformReady s := ⟨hs, hlegal, hcap, hr⟩
  have hconjv := inverseCommand_conjv.expand_dataOps s.n s.len
  have hfft := inverseCommand_fft.expand_dataOps s.n s.len
  have hboth : ∀ u ∈ expand .conjv s.n s.len ++ expand .fft s.n s.len, DataOp u := fun u hu =>
    (List.mem_append.mp hu).elim (hconjv u) (hfft u)
  have hwritten : ∀ e < s.n.toNat, EntryWritten (performAll (expandIfft s.n) s) e := by
    intro e he
    rw [expandIfft_eq, performAll_append, performAll_append]
    exact entryWritten_performAll _ (entryWritten_performAll _
      (computesEach_conjm.entryWritten he s))
  exact ⟨_, _, _, _, inverseCommand_conjv.wholeCommand_eq hready,
    wholeCommand_after hready hconjv inverseCommand_fft _ _,
    wholeCommand_after hready hboth inverseCommand_ipost _ _,
    inverseCommand_ifft.wholeCommand_eq hready, rfl, fun _ _ => rfl,
    fun e he => ⟨hwritten e he, hwritten e he⟩, fun _ => ⟨rfl, rfl⟩⟩

end Sys2Proof.Proofs

/-! ### Proofs for the family 45_padding: the padding commands set the words of their footprint to
`+0`, and read nothing. -/

namespace Sys2Proof.Proofs

open Sys2Proof.Machine Sys2Proof.Safety

/-! #### Lists of micro-ops that only clear words -/

/-- The micro-op reads nothing and leaves `+0` in every word it writes. -/
def ClearsWords (u : UOp) : Prop :=
  entriesRead u = [] ∧ ∀ s j, MicroOpWrites u j → (perform u s).mem.lookup j = some PZERO

theorem clearsWords_zero (e : Nat) : ClearsWords (.zero e) := by
  refine ⟨rfl, fun s j hj => ?_⟩
  obtain ⟨hre, him⟩ : EntryIs (perform (.zero e) s) e czero := entryIs_writeEntry e czero s
  obtain ⟨f, hf, hj⟩ := hj
  obtain rfl : f = e := List.mem_singleton.mp hf
  rcases hj with rfl | rfl
  · exact hre
  · exact him

theorem clearsWords_lift (e : Nat) : ClearsWords (.lift e) := by
  refine ⟨rfl, fun s j hj => ?_⟩
  obtain rfl : j = 2 * e + 1 := hj
  exact lookup_write_same _ _ _

theorem performAll_lookup_of_not_writes {us : List UOp} {j : Nat} (s : State)
    (h : ∀ u ∈ us, ¬ MicroOpWrites u j) : (performAll us s).mem.lookup j = s.mem.lookup j := by
  induction us generalizing s with
  | nil => rfl
  | cons u us ih =>
    obtain ⟨hu, hus⟩ := List.forall_mem_cons.mp h
    rw [performAll_cons, ih _ hus, perform_lookup_of_not_writes s hu]

/-- A word that holds `+0` keeps it: each later micro-op clears it again or leaves it alone. -/
theorem performAll_keeps_PZERO {us : List UOp} {s : State} {j : Nat}
    (hus : ∀ u ∈ us, ClearsWords u) (hj : s.mem.lookup j = some PZERO) :
    (performAll us s).mem.lookup j = some PZERO := by
  induction us generalizing s with
  | nil => exact hj
  | cons u us ih =>
    obtain ⟨⟨-, hclear⟩, hus⟩ := List.forall_mem_cons.mp hus
    refine ih hus ?_
    by_cases hw : MicroOpWrites u j
    · exact hclear s j hw
    · exact (perform_lookup_of_not_writes s hw).trans hj

theorem performAll_clears {us : List UOp} {u : UOp} {j : Nat} (hus : ∀ u ∈ us, ClearsWords u)
    (hu : u ∈ us) (hj : MicroOpWrites u j) (s : State) :
    (performAll us s).mem.lookup j = some PZERO := by
  obtain ⟨before, after, rfl⟩ := List.append_of_mem hu
  rw [performAll_append, performAll_cons]
  exact performAll_keeps_PZERO (fun v hv => hus v (by simp [hv]))
    ((hus u hu).2 (performAll before s) j hj)

/-! #### `ZPAD` and `LIFT` whole -/

/-- The list of the command only clears words, and its micro-ops write all of the footprint of R82
(`mayWriteWord_of_microOpWrites` is the converse). -/
structure ClearsFootprint (i : Instr) (nl ll : Word32) : Prop where
  clears : ∀ u ∈ expand i nl ll, ClearsWords u
  covers : ∀ j, MayWriteWord i nl ll j → ∃ u ∈ expand i nl ll, MicroOpWrites u j

theorem clearsFootprint_zpad (nl ll : Word32) : ClearsFootprint .zpad nl ll where
  clears := List.forall_mem_map.mpr fun _ _ => clearsWords_zero _
  covers := by
    rintro j ⟨hlow, hhigh⟩
    exact ⟨_, List.mem_map_of_mem (List.mem_range.mpr (by omega : j / 2 - ll.toInt.toNat < _)),
      _, List.mem_singleton_self _, by omega⟩

theorem clearsFootprint_lift (nl ll : Word32) : ClearsFootprint .lift nl ll where
  clears := List.forall_mem_map.mpr fun _ _ => clearsWords_lift _
  covers := by
    rintro j ⟨hhigh, hodd⟩
    have himag : j = 2 * (j / 2) + 1 := by omega
    exact ⟨_, List.mem_map_of_mem (List.mem_range.mpr (by omega : j / 2 < _)), himag⟩

/-- Such a command clears its footprint and changes no other word; as it reads nothing, it needs no
written entry and draws nothing. -/
theorem ClearsFootprint.command_runs {i : Instr} {s : State} {k : Nat}
    (h : ClearsFootprint i s.n s.len) (hs : Idle s) (hi : NamesNoRegister i) (hset : i ≠ .npow2)
    (hcheck : issueCheck s.params i s.n s.len = none) (hk : k = (expand i s.n s.len).length) :
    exec i s = .next (inFlight (encode i) 0 s) ∧
    ∃ t, execTimes i (k + 2) s = .next t ∧ t = finished (encode i) k { s with mem := t.mem } ∧
      (∀ j, MayWriteWord i s.n s.len j → t.mem.lookup j = some PZERO) ∧
      (∀ j, ¬ MayWriteWord i s.n s.len j → t.mem.lookup j = s.mem.lookup j) := by
  have hnone : ∀ u ∈ expand i s.n s.len, ∀ e ∈ entriesRead u, EntryWritten s e := by
    intro u hu e he
    rw [(h.clears u hu).1] at he
    cases he
  have hmem := performAll_memOnly (fun u hu => expand_dataOp hi hset hu) hnone
  refine ⟨exec_issues hs hcheck, _,
    execTimes_vectorCommand hs hi hset hcheck (fun u hu => .inr (hnone u hu)) hk,
    congrArg (finished (encode i) k) hmem, fun j hj => ?_, fun j hj => ?_⟩
  · obtain ⟨u, hu, hw⟩ := h.covers j hj
    exact performAll_clears h.clears hu hw s
  · exact performAll_lookup_of_not_writes s fun u hu hw =>
      hj (mayWriteWord_of_microOpWrites hcheck hu hw)

theorem checkZpad_of_legal {nmax : Nat} {nl ll : Word32} (hcap : nl.toNat ≤ nmax)
    (hlow : 0 ≤ ll.toInt) (hhigh : ll.toInt ≤ nl.toNat) : checkZpad nmax nl ll = none := by
  simp [checkZpad, capacityCheck, operandCheck, padFits, hcap, hlow, hhigh]

/-- Settles O58: the footprint of `ZPAD` is both words of the entries `LL .. NL-1`. -/
theorem zeroPadRuns : Obligations.ZeroPadRuns := by
  rintro s n l hs rfl hl hle hcap
  have hll : s.len.toInt.toNat = l := by omega
  have hcheck : issueCheck s.params .zpad s.n s.len = none :=
    checkZpad_of_legal hcap (by omega) (by omega)
  have hk : s.n.toNat - l = (expand .zpad s.n s.len).length := by
    simp [expand, expandZpad, hll]
  obtain ⟨hissue, t, hrun, hframe, hclear, hkeep⟩ :=
    (clearsFootprint_zpad s.n s.len).command_runs hs (by simp [NamesNoRegister]) nofun hcheck hk
  simp only [MayWriteWord, hll] at hclear hkeep
  exact ⟨hissue, t, hrun, hframe,
    fun i hlow hhigh => ⟨hclear _ (by omega), hclear _ (by omega)⟩, fun j hj => hkeep j (by omega)⟩

/-- Settles O59: the footprint of `LIFT` is the odd words below `2 * NL`. -/
theorem liftRuns : Obligations.LiftRuns := by
  rintro s n hs rfl hcap
  have hk : s.n.toNat = (expand .lift s.n s.len).length := by simp [expand, expandLift]
  obtain ⟨hissue, t, hrun, hframe, hclear, hkeep⟩ :=
    (clearsFootprint_lift s.n s.len).command_runs hs (by simp [NamesNoRegister]) nofun
      (if_pos hcap) hk
  refine ⟨hissue, t, hrun, hframe, fun i hi => hclear _ ⟨by omega, by omega⟩, fun j hj => ?_⟩
  refine hkeep j fun ⟨hhigh, hodd⟩ => hj (j / 2) ?_ ?_ <;> omega

end Sys2Proof.Proofs

/-! ### Proofs for the family 60_exceptions: the issue checks in their order, fault entry, the issue
procedure of a `CMD` write, and what stays accessible while a fault is recorded. -/

namespace Sys2Proof.Proofs

open Sys2Proof.Machine Sys2Proof.Safety

/-! #### What each issue check answers -/

/-- The answer of an operand check, by what its test means. -/
theorem operandCheck_eq_ite {ok : Bool} {p : Prop} [Decidable p] (h : ok = true ↔ p)
    (info : Word32) : operandCheck ok info = if p then none else some (.badOperand, info) :=
  if_congr h rfl rfl

theorem checkTwid_eq_ite (lmax : Nat) (d : Reg) (st k : Nat) : checkTwid lmax d st k =
    if 1 ≤ st ∧ st ≤ lmax ∧ k < 2 ^ (st - 1) then none
    else some (.badOperand, encode (.twid d st k)) :=
  operandCheck_eq_ite (by simp [twiddleInRange, stageInRange, and_assoc]) _

theorem checkBfly_eq_ite (e o w : Reg) : checkBfly e o w =
    if e = o then some (.badOperand, encode (.bfly e o w)) else none :=
  (operandCheck_eq_ite decide_eq_true_iff _).trans (ite_not _ _ _)

theorem capacityCheck_of_lt {nmax : Nat} {nl : Word32} (h : nmax < nl.toNat) :
    capacityCheck nmax nl = some (.capacityExceeded, nl) :=
  if_neg h.not_ge

/-- `ZPAD` checks its operand only within the capacity. -/
theorem checkZpad_eq_ite (nmax : Nat) (nl ll : Word32) : checkZpad nmax nl ll =
    if nmax < nl.toNat then some (.capacityExceeded, nl)
    else if 0 ≤ ll.toInt ∧ ll.toInt ≤ (nl.toNat : Int) then none else some (.badOperand, ll) := by
  rw [checkZpad]
  split
  case isTrue hover => rw [capacityCheck_of_lt hover, Option.some_or]
  case isFalse hfits =>
    have hcap : capacityCheck nmax nl = none := if_pos (not_lt.mp hfits)
    rw [hcap, Option.none_or]
    exact operandCheck_eq_ite (by simp [padFits]) ll

/-! #### The length checks of the five transform commands -/

theorem lengthCheck_iff {nl : Word32} : lengthCheck nl = none ↔ TransformLength nl := by
  constructor
  · exact fun h => (lengthCheck_eq_none h).imp_left fun h0 => BitVec.eq_of_toNat_eq h0
  · exact fun h => if_pos ((zeroOrPow2_of_transformLength h).imp_right (ispow2_iff _).mpr)

/-- The length is checked before the capacity (R219, R224). -/
theorem transformCheck_of_not_transformLength {nl : Word32} (nmax : Nat)
    (h : ¬ TransformLength nl) : transformCheck nmax nl = some (.invalidLength, nl) := by
  have hlen : lengthCheck nl = some (.invalidLength, nl) :=
    if_neg fun hok => h (lengthCheck_iff.mp (if_pos hok))
  rw [transformCheck, hlen, Option.some_or]

theorem transformCheck_of_exceeded {nmax : Nat} {nl : Word32} (h : TransformLength nl)
    (hover : nmax < nl.toNat) : transformCheck nmax nl = some (.capacityExceeded, nl) := by
  rw [transformCheck, lengthCheck_iff.mpr h, Option.none_or, capacityCheck_of_lt hover]

/-- The commands whose one check is that of their length (R219). -/
theorem issueCheck_eq_transformCheck {i : Instr}
    (hi : i ∈ [Instr.bitrev, Instr.fft, Instr.ipost, Instr.ifft]) (p : Config.Params)
    (nl ll : Word32) : issueCheck p i nl ll = transformCheck p.nmax nl := by
  fin_cases hi <;> rfl

/-- A length that fails its check is what `BSTAGE` records, whatever its operand. -/
theorem checkBstage_of_transformCheck {nmax : Nat} {nl : Word32} {f : FaultRecord} (st : Nat)
    (h : transformCheck nmax nl = some f) : checkBstage nmax st nl = some f := by
  rw [checkBstage, h, Option.some_or]

theorem checkBstage_of_badOperand {nmax st : Nat} {nl : Word32} (h : TransformLength nl)
    (hcap : nl.toNat ≤ nmax) (hst : ¬ (1 ≤ st ∧ st ≤ log2 nl.toNat)) :
    checkBstage nmax st nl = some (.badOperand, encode (.bstage st)) := by
  rw [checkBstage, transformCheck_of_transformLength h hcap, Option.none_or,
    operandCheck_eq_ite (p := 1 ≤ st ∧ st ≤ log2 nl.toNat) (by simp [stageInRange]), if_neg hst]

/-- Settles O31, command by command: each check by what its test means, and of
two checks the first. -/
theorem issueChecksInOrder : Obligations.IssueChecksInOrder := by
  intro p n l
  refine ⟨?_, checkTwid_eq_ite p.lmax, checkBfly_eq_ite,
    fun d idx => operandCheck_eq_ite decide_eq_true_iff _,
    fun d idx => operandCheck_eq_ite decide_eq_true_iff _,
    fun i hi => ?_, fun st => ?_, fun i hi => ?_, checkZpad_eq_ite p.nmax n l⟩
  · rintro i (rfl | ⟨d, a, b, rfl | rfl | rfl⟩ | ⟨d, a, rfl | rfl⟩ | rfl) <;> rfl
  · rw [issueCheck_eq_transformCheck hi]
    exact ⟨transformCheck_of_not_transformLength _, transformCheck_of_exceeded,
      transformCheck_of_transformLength⟩
  · exact ⟨fun h => checkBstage_of_transformCheck st (transformCheck_of_not_transformLength _ h),
      fun h hover => checkBstage_of_transformCheck st (transformCheck_of_exceeded h hover),
      checkBstage_of_badOperand, checkBstage_of_legal⟩
  · fin_cases hi <;> rfl

/-! #### Fault entry and the discarded command -/

/-- A command that a check refuses takes the fault of that check (R218 step 4, R222). -/
theorem exec_refused_by_check {i : Instr} {s : State} {c : Cause} {info : Word32} (hs : Idle s)
    (hc : issueCheck s.params i s.n s.len = some (c, info)) :
    exec i s = .next (faulted c.code info s) :=
  have ⟨hidle, hfree⟩ := hs
  exec_faults hidle hfree hc

/-- A command to an idle block with a fault recorded does nothing (R218 step 2, R229). -/
theorem exec_discarded (i : Instr) {s : State} (hidle : s.busy = false) (herr : s.err = true) :
    exec i s = .next s := by
  rw [exec_idle hidle, issue_discarded herr]

/-- Settles O32: fault entry is the one record update, for a refused command and for an illegal
word. -/
theorem faultEntryChangesOnlyTheRecord : Obligations.FaultEntryChangesOnlyTheRecord :=
  ⟨fun _ _ _ _ => exec_refused_by_check, fun _ _ _ => csrWrite_cmd_illegal⟩

/-- Settles O33: each condition makes a known check the first to fail, and its fault is taken. -/
theorem faultConditions : Obligations.FaultConditions := by
  refine ⟨fun w e s => csrWrite_cmd_illegal, fun s hs hlen => ?_, fun s hs hover => ?_,
    fun s hs => ?_⟩
  · obtain ⟨-, -, -, -, -, htransform, hbstage, -, -⟩ := issueChecksInOrder s.params s.n s.len
    refine ⟨fun i hi => ?_, fun st => ?_⟩
    · obtain ⟨hinvalid, -, -⟩ := htransform i hi
      exact exec_refused_by_check hs (hinvalid hlen)
    · obtain ⟨hinvalid, -, -, -⟩ := hbstage st
      exact exec_refused_by_check hs (hinvalid hlen)
  · obtain ⟨-, -, -, -, -, htransform, hbstage, hvector, hzpad⟩ :=
      issueChecksInOrder s.params s.n s.len
    refine ⟨fun hlen => ⟨fun i hi => ?_, fun st => ?_⟩, fun i hi => ?_⟩
    · obtain ⟨-, hexceeded, -⟩ := htransform i hi
      exact exec_refused_by_check hs (hexceeded hlen hover)
    · obtain ⟨-, hexceeded, -, -⟩ := hbstage st
      exact exec_refused_by_check hs (hexceeded hlen hover)
    · refine exec_refused_by_check (c := .capacityExceeded) hs ?_
      fin_cases hi
      · exact (hvector .conjv (by simp)).trans (if_neg hover.not_ge)
      · exact hzpad.trans (if_pos hover)
      · exact (hvector .lift (by simp)).trans (if_neg hover.not_ge)
  · obtain ⟨-, htwid, hbfly, hcld, hcst, -, hbstage, -, hzpad⟩ :=
      issueChecksInOrder s.params s.n s.len
    refine ⟨fun d st k hrange => ?_, fun e w => ?_, fun d idx hidx => ⟨?_, ?_⟩,
      fun st hlen hcap hst => ?_, fun hcap hpad => ?_⟩
    · exact exec_refused_by_check hs ((htwid d st k).trans (if_neg hrange))
    · exact exec_refused_by_check hs ((hbfly e e w).trans (if_pos rfl))
    · exact exec_refused_by_check hs ((hcld d idx).trans (if_neg hidx.not_gt))
    · exact exec_refused_by_check hs ((hcst d idx).trans (if_neg hidx.not_gt))
    · obtain ⟨-, -, hoperand, -⟩ := hbstage st
      exact exec_refused_by_check hs (hoperand hlen hcap hst)
    · exact exec_refused_by_check hs
        (hzpad.trans ((if_neg hcap.not_gt).trans (if_neg hpad)))

/-! #### The `CMD` write -/

/-- The step of a `CMD` write on an idle block answers `Ok` after the issue of its word (R218). -/
theorem step_of_cmdWrite {s t : State} {w : Word32} {rest : List ScriptLine}
    (h : HostTries s (.direct (.csrWrite 8 w)) rest) (hidle : s.busy = false)
    (ht : issueWord w (pending rest s) = .next t) : step s = .next (respond .ok t) :=
  step_of_csrWrite h (isHeld_of_idle hidle _) ht

/-- A `CMD` write while a fault is recorded is answered and has no effect (R218 step 2). -/
theorem step_of_cmdWrite_discarded {s : State} {w : Word32} {rest : List ScriptLine}
    (h : HostTries s (.direct (.csrWrite 8 w)) rest) (hidle : s.busy = false)
    (herr : s.err = true) : step s = .next (answered s rest .ok) :=
  step_of_cmdWrite h hidle (issueWord_discarded (s := pending rest s) herr)

/-- Settles O30, step by step of R218; the word latched is the word written, since a word that
decodes is the one word of its command. -/
theorem commandIssue : Obligations.CommandIssue := by
  intro s rest w h
  refine ⟨fun hbusy => ?_, step_of_cmdWrite_discarded h, ?_, ?_, ?_⟩
  · exact step_of_held h rfl (by simp [isHeld, hbusy])
  · rintro ⟨hidle, hfree⟩ e hdecode
    exact step_of_cmdWrite h hidle (issueWord_illegal (s := pending rest s) hfree hdecode)
  · intro hs i c info hdecode hcheck
    obtain ⟨hidle, hfree⟩ := hs
    exact step_of_cmdWrite h hidle ((issueWord_ok (s := pending rest s) hfree hdecode).trans
      (exec_refused_by_check (s := pending rest s) ⟨hidle, hfree⟩ hcheck))
  · rintro ⟨hidle, hfree⟩ i hdecode hcheck
    have haccept := exec_accepts (s := pending rest s) hidle hfree hcheck
    rw [encode_of_decode hdecode] at haccept
    exact step_of_cmdWrite h hidle
      ((issueWord_ok (s := pending rest s) hfree hdecode).trans haccept)

/-! #### While a fault is recorded -/

/-- `CTRL` reads as `IE` alone (R34). -/
theorem csrValue_ctrl (s : State) : csrValue 3 s = if s.ie then 1 else 0 := by
  change 0#31 ++ BitVec.ofBool s.ie = _
  cases s.ie <;> rfl

/-- Settles O34: a recorded fault discards what is issued, and no other transaction looks at it. -/
theorem commandsVanishWhileFaultRecorded : Obligations.CommandsVanishWhileFaultRecorded := by
  intro s rest hidle herr
  obtain ⟨hread, -⟩ := dataMemoryTransactions
  refine ⟨fun w => issueWord_discarded herr, fun i => exec_discarded i hidle herr,
    fun w h => step_of_cmdWrite_discarded h hidle herr, fun x => step_of_csrRead,
    ⟨csrValue_ctrl s, rfl, rfl, rfl⟩,
    fun v h => step_of_csrWrite h (isHeld_of_idle hidle _) rfl,
    fun v h => step_of_csrWrite h (isHeld_of_idle hidle _) rfl,
    fun v => step_of_ctrlWrite, fun j v hj hv h => ?_, fun j hj hnone h => ?_,
    fun j v hj h => step_of_memWrite h hj hidle⟩
  · obtain ⟨-, -, hanswer⟩ := hread s rest j h
    obtain ⟨hwritten, -, -⟩ := hanswer hj hidle
    exact hwritten v hv
  · obtain ⟨-, -, hanswer⟩ := hread s rest j h
    obtain ⟨-, hany, hrefuse⟩ := hanswer hj hidle
    exact ⟨hany hnone, hrefuse hnone⟩

end Sys2Proof.Proofs
